-- ==== Sys2Proof/Word.lean ====
section
/-! DEFINITION. The widths the spec gives its values (00_scope.md R8): bytes, 16-bit and 32-bit
unsigned words, and the 10-bit offset of the register window (20_memory.md R60). -/

namespace Sys2Proof

/-- An unsigned byte, the `u8` of R8. -/
abbrev Byte := BitVec 8

/-- An unsigned 16-bit value, the `u16` of R8 (CRC_ACC and CRC_OUT). -/
abbrev Word16 := BitVec 16

/-- An unsigned 32-bit value, the `u32` of R8 (the three counters, and the words of SHA-256). -/
abbrev Word32 := BitVec 32

/-- An offset into the register window: 10 bits, 0x000 to 0x3FF (R60, R62). -/
abbrev Offset := BitVec 10

end Sys2Proof
end

