-- ==== Sys2Proof/Config.lean ====
section
/-! DEFINITION. The implementation's parameters (00_scope.md R6, R7), the shapes of the answers the
TOKEN and the ENVIRONMENT give (R5, 43_transport.md R135, R136, R139, 44_sequencer.md R152), and the
free values that stand for those answers wherever a run has not been given them as data. -/

namespace Sys2Proof

/-- The table `P_CMD` of R90: the one-byte wire identifier of each of the 14 wire commands. Every value
is OPEN (R6, 91_not_in_source.md G2), and the values need not be distinct (R7). -/
structure CmdIds where
  isBuild : Byte
  getSerial : Byte
  isConfigured : Byte
  lock : Byte
  genKey : Byte
  loadTransKey : Byte
  loadWriteKey : Byte
  loadAttestKey : Byte
  bootloader : Byte
  bootloaderDestroy : Byte
  rng : Byte
  seed : Byte
  wipe : Byte
  wink : Byte
  deriving DecidableEq, Repr, Inhabited

/-- The parameters a model takes (R6). The bounds of R7 stand in the types: every offset is below
`P_RESP_MAX` = 64, and `P_RNG_DATA_OFF` is at most 32. -/
structure Params where
  /-- `P_CMD.x`, OPEN. -/
  cmd : CmdIds
  /-- `P_VID`, OPEN. -/
  vid : BitVec 16
  /-- `P_PID`, OPEN. -/
  pid : BitVec 16
  /-- `P_TEMPLATE`, OPEN: the contents of the TEMPLATE ROM (R50). -/
  template : Vector Byte 128
  /-- `P_RNG_ECHO_OFF`, OPEN. -/
  rngEchoOff : Fin 64
  /-- `P_RNG_LEN_OFF`, OPEN. -/
  rngLenOff : Fin 64
  /-- `P_RNG_DATA_OFF`, OPEN, at most 32 (R7). -/
  rngDataOff : Fin 33
  /-- `P_SEED_OK_OFF`, OPEN. -/
  seedOkOff : Fin 64
  /-- `P_WIPE_OK_OFF`, OPEN. -/
  wipeOkOff : Fin 64
  /-- `P_SERIAL_RESEND`: decided false (R6, D19), with true as the named variant. -/
  serialResend : Bool
  /-- `P_LONG_BCNT`: decided false (R6, D14), with true as the named variant of R87. -/
  longBcnt : Bool
  deriving DecidableEq, Repr, Inhabited

/-- Which of the two outcomes the TOKEN chooses at a `Transmit` (R135). -/
inductive TxOutcome where
  | sent
  | linkError
  deriving DecidableEq, Repr, Inhabited

/-- An outcome the TOKEN delivers at an `Await` (R136). -/
inductive RxOutcome where
  | data (b : List Byte)
  | timeout
  | linkError
  deriving DecidableEq, Repr, Inhabited

/-- What the TOKEN does when the CORE waits for it: it delivers an outcome, or it delivers nothing at
this step (R136: on an unbounded wait it may do so for ever). -/
inductive TokenAnswer where
  | deliver (o : RxOutcome)
  | silent
  deriving DecidableEq, Repr, Inhabited

/-- An attached token as OPEN sees it: vendor and product identifier and the serial bytes (R139). -/
structure Token where
  vid : BitVec 16
  pid : BitVec 16
  serial : List Byte
  deriving DecidableEq, Repr, Inhabited

/-- What the ENVIRONMENT answers at an OPEN (R139): the set of attached tokens, and its choice, which is
to refuse (`none`) or to take one of the matching tokens, counted round their list. -/
structure OpenAnswer where
  attached : List Token
  pick : Option Nat
  deriving DecidableEq, Repr, Inhabited

/-- An entropy draw: 32 bytes, any value (R152). -/
abbrev Draw := Vector Byte 32

/-- `P_CFG_LEN` (R6): the length of the config blob. -/
abbrev Config.cfgLen : Nat := 128
/-- `P_KEY_LEN` (R6). -/
abbrev Config.keyLen : Nat := 32
/-- `P_MASK_LEN` (R6, 90_conflicts.md C2). -/
abbrev Config.maskLen : Nat := 36
/-- `P_FRAME_LEN` (R6): the length of a frame on the link, report id included. -/
abbrev Config.frameLen : Nat := 64
/-- `P_RESP_MAX` (R6): the longest response. -/
abbrev Config.respMax : Nat := 64
/-- `P_TRIES` (R6): the default attempt count of the bounded-retry read. -/
abbrev Config.tries : Byte := 5
/-- `P_T_CFG_MS` (R6): the read timeout of a configuration step and of RECV, in milliseconds. -/
abbrev Config.tCfgMs : Nat := 1000
/-- `P_T_WIPE_MS` (R6): the read timeout of one wipe read, in milliseconds. -/
abbrev Config.tWipeMs : Nat := 10000
/-- `P_T_SLEEP_MS` (R6): the pause between failed attempts; it has no observable effect in the CORE
(R196), so no definition of the machine reads it. -/
abbrev Config.tSleepMs : Nat := 100
/-- `P_SEED_MAX` (R6): the largest seed chunk. -/
abbrev Config.seedMax : Nat := 20
/-- `P_RNG_LEN` (R6): bytes of random data per RNG response. -/
abbrev Config.rngLen : Nat := 32

/-- The OPEN parameters of R6: no body, so no proof can see a value (assumption 1). -/
opaque Config.openParams : Params

/-- The parameters of the machine after reset: the OPEN ones free, the two decided ones as R6 decides
them (D14, D19). -/
def Config.params : Params :=
  { Config.openParams with serialResend := false, longBcnt := false }

/-- The TOKEN's outcome of a `Transmit` whose outcome no data gives: a free value (assumption 2). -/
opaque Config.freeTx : Nat → TxOutcome
/-- The TOKEN's answer to an `Await` whose answer no data gives: a free value (assumption 2). -/
opaque Config.freeRx : Nat → TokenAnswer
/-- An entropy draw that no data gives: a free value (assumption 2). -/
opaque Config.freeDraw : Nat → Draw
/-- The ENVIRONMENT's answer to an OPEN that no data gives: a free value (assumption 2). -/
opaque Config.freeOpen : Nat → OpenAnswer
/-- Whether a pending cancel comes before a committed chunk (R176) where no data says: a free value
(assumption 2). -/
opaque Config.freeOrder : Nat → Bool

end Sys2Proof
end

