-- ==== Sys2Proof/Machine/State.lean ====
section
/-! DEFINITION. The machine's state as plain data: every register and buffer of the window
(10_state.md R15 to R51), the CORE's internal state (R52 to R57), and the model's own fields, which hold
what the other agents (00_scope.md R5) do next and what they have been told. -/

namespace Sys2Proof.Machine

/-- The faults and diagnostics of the machine by name (60_exceptions.md R170). -/
inductive ErrName where
  | deviceNotFound
  | notConfigured
  | protocolMismatch
  | lockFailed
  | keyLoadFailed
  | invalidAttestationKey
  | bootloaderTransitionFailed
  | ioTimeout
  | illegalOp
  | noSession
  | sessionBusy
  | badArgument
  | linkError
  deriving DecidableEq, Repr

/-- The fields of STATUS (R18), bit 0 first. -/
structure Status where
  busy : Bool
  done : Bool
  err : Bool
  ovr : Bool
  opened : Bool
  outv : Bool
  tmo : Bool
  waitin : Bool
  deriving DecidableEq, Repr

/-- The timeout of an `Await` (R53, R136): `P_T_CFG_MS`, `P_T_WIPE_MS` or INF. -/
inductive Timeout where
  | cfg
  | wipe
  | inf
  deriving DecidableEq, Repr

/-- The label of a position in an operation's pseudocode (R53). With the latched OPC, SEQ_STEP and ATT it
says where the operation goes on. -/
inductive Pos where
  /-- The first line of the operation. -/
  | start
  /-- Just after the `CancelPoint` at the top of a stream's loop (R161). -/
  | loopTop
  /-- Just after the `Await` the operation waits in. -/
  | afterAwait
  /-- Just after the input wait of SEED_STREAM (R164). -/
  | afterInput
  deriving DecidableEq, Repr

/-- The phase PH of the CORE (R53). -/
inductive Phase where
  | idle
  | ready (pos : Pos)
  | await (t : Timeout) (pos : Pos)
  | input (pos : Pos)
  deriving DecidableEq, Repr

/-- An event of the output port log (R56). -/
inductive OutEvent where
  | persist (img : List Byte)
  | rngData (d : List Byte)
  | seedSummary (n : Word32)
  | diag (code : Byte)
  deriving DecidableEq, Repr

/-- An event of the link history (R57). -/
inductive LinkEvent where
  | tx (frame : List Byte) (o : TxOutcome)
  | rx (o : RxOutcome)
  deriving DecidableEq, Repr

/-- The answers the TOKEN and the ENVIRONMENT give next, in the order they are taken. Where a list has
run out the answer is a free value of Config (assumption 2). -/
structure Env where
  /-- The outcomes of the next Transmits (R135). -/
  tx : List TxOutcome
  /-- The TOKEN's answers to the next Awaits (R136). -/
  rx : List TokenAnswer
  /-- The next entropy draws (R152). -/
  draws : List Draw
  /-- The ENVIRONMENT's answers to the next OPENs (R139). -/
  opens : List OpenAnswer
  /-- Whether a pending cancel comes before a committed chunk, the next times both stand (R176). -/
  order : List Bool
  deriving DecidableEq, Repr

/-- The step some agent takes (20_memory.md R70). -/
inductive Move where
  /-- The CORE takes its step, if it has one (40_control.md R107). -/
  | core
  /-- The HOST reads `n` bytes at an offset (20_memory.md R62; only `n` = 1 is an access). -/
  | hostRead (off : Offset) (n : Nat)
  /-- The HOST offers bytes at an offset (R62; only one byte is an access). -/
  | hostWrite (off : Offset) (v : List Byte)
  /-- The HOST's `WAIT`: it polls STATUS until BUSY is 0 (30_encoding.md R84). -/
  | wait
  /-- The HOST's `WAITIN`: it polls STATUS until WAITIN is 1 or BUSY is 0 (R84). -/
  | waitin
  /-- The platform asserts reset (70_reset_and_hazards.md R185). -/
  | reset
  deriving DecidableEq, Repr

/-- The machine's state. The offsets in the docstrings are those of the window map (R15). -/
structure State where
  /-- OPC, 0x000 (R16). -/
  opc : Byte
  /-- ARG_A, 0x001 (R17). -/
  argA : Byte
  /-- ARG_B, 0x002 (R17). -/
  argB : Byte
  /-- ARG_C, 0x003 (R17). -/
  argC : Byte
  /-- STATUS, 0x004 (R18). -/
  status : Status
  /-- ERR_CODE, 0x005 (R19). -/
  errCode : Byte
  /-- ERR_STEP, 0x006 (R20). -/
  errStep : Byte
  /-- SEQ_STEP, 0x007 (R21). -/
  seqStep : Byte
  /-- TRIES, 0x009 (R23). -/
  tries : Byte
  /-- RXLEN, 0x00A (R24). -/
  rxLen : Byte
  /-- TXLEN, 0x00B (R25). -/
  txLen : Byte
  /-- SERIAL_LEN, 0x00C (R26). -/
  serialLen : Byte
  /-- KEYFLAGS, 0x00D (R27). -/
  keyFlags : Byte
  /-- WKEY_LEN, 0x00E (R28). -/
  wkeyLen : Byte
  /-- RKEY_LEN, 0x00F (R28). -/
  rkeyLen : Byte
  /-- ATTKEY_LEN, 0x010 (R29). -/
  attkeyLen : Byte
  /-- FILTER_LEN, 0x011 (R30). -/
  filterLen : Byte
  /-- RESULT, 0x012 (R31). -/
  result : Byte
  /-- CRC_ACC, 0x014 and 0x015 (R33). -/
  crcAcc : Word16
  /-- CRC_OUT, 0x016 and 0x017 (R34). -/
  crcOut : Word16
  /-- SEED_COUNT, 0x018 to 0x01B (R35). -/
  seedCount : Word32
  /-- RNG_COUNT, 0x01C to 0x01F (R36). -/
  rngCount : Word32
  /-- DIAG_COUNT, 0x020 to 0x023 (R37). -/
  diagCount : Word32
  /-- LAST_DIAG, 0x024 (R38). -/
  lastDiag : Byte
  /-- The buffers, 0x040 to 0x37F: TXBUF, RXBUF, PAYLOAD, CFG, SERIAL, WKEY, RKEY, ATTKEY, WMASK, RMASK,
  DIGEST1, DIGEST2, SEED_CHUNK and FILTER (R39 to R49), as the canonical list of the bytes that are
  not 0x00. -/
  mem : List Host.Cell
  /-- OPL, the latched operation code (R52). -/
  opl : Byte
  /-- AL, the latched argument A (R52). -/
  al : Byte
  /-- BL, the latched argument B (R52). -/
  bl : Byte
  /-- CL, the latched argument C (R52). -/
  cl : Byte
  /-- PH (R53). -/
  phase : Phase
  /-- ATT, the attempt counter (R53). -/
  att : Byte
  /-- CANCEL_REQ (R54). -/
  cancelReq : Bool
  /-- CHUNK, the committed seed chunk (R54). -/
  chunk : List Byte
  /-- CHUNK_N, its length (R54). -/
  chunkN : Byte
  /-- SESSION_TOKEN, the token of the open session, or none (R55). -/
  session : Option Token
  /-- OUT_LOG (R56). -/
  outLog : List OutEvent
  /-- LINK_LOG (R57). -/
  linkLog : List LinkEvent
  /-- The implementation's parameters, the TEMPLATE ROM among them (R6, R50): the model's own field for
  what is fixed for a machine, so that a statement about every state is about every value. -/
  params : Params
  /-- The answers of the TOKEN and the ENVIRONMENT that are given as data: the model's own field. -/
  env : Env
  /-- How many free answers have been taken: the model's own counter. -/
  freeCount : Nat
  /-- The moves of the agents that come next; where it is empty the CORE moves: the model's own field. -/
  sched : List Move
  /-- The byte the last HOST read returned: the model's own field. -/
  rdata : Byte
  deriving DecidableEq, Repr

/-- How a run stops. The spec has no such stop: an error of the CORE is a fault in the spec's sense (R171),
which is a next state here. -/
inductive Fault where
  /-- Raised by an operation of several CORE steps (RECV, RECV_RETRY, CONFIGURE, RNG_STREAM, SEED_STREAM,
  WIPE) whose phase is no position of its own pseudocode. No run from reset reaches such a phase
  (Safety.lean), and the spec gives it no meaning. Safe: the model stops where the hardware is never. -/
  | noSuchPosition
  deriving DecidableEq, Repr

/-- What the model refuses. -/
inductive Refusal where
  /-- Raised by exec's arm of an instruction that has no meaning yet. Safe. -/
  | notModelled (mnemonic : String)
  /-- Raised by a HOST access of a width other than one byte, which is no access of this hardware and
  which a model refuses (20_memory.md R62). Safe. -/
  | accessWidth (n : Nat)
  deriving DecidableEq, Repr

/-- STATUS after reset: every field 0 (70_reset_and_hazards.md R186). -/
def Status.zero : Status :=
  { busy := false, done := false, err := false, ovr := false,
    opened := false, outv := false, tmo := false, waitin := false }

/-- No answer given as data. -/
def Env.empty : Env := { tx := [], rx := [], draws := [], opens := [], order := [] }

/-- The machine right after reset: every register and buffer 0, no session, both logs empty, the CORE idle
(70_reset_and_hazards.md R186, R188). The model's own fields hold no answer and no move. -/
def State.reset : State :=
  { opc := 0, argA := 0, argB := 0, argC := 0
    status := Status.zero
    errCode := 0, errStep := 0, seqStep := 0
    tries := 0, rxLen := 0, txLen := 0, serialLen := 0, keyFlags := 0
    wkeyLen := 0, rkeyLen := 0, attkeyLen := 0, filterLen := 0, result := 0
    crcAcc := 0, crcOut := 0
    seedCount := 0, rngCount := 0, diagCount := 0, lastDiag := 0
    mem := []
    opl := 0, al := 0, bl := 0, cl := 0
    phase := .idle, att := 0
    cancelReq := false, chunk := [], chunkN := 0
    session := none
    outLog := [], linkLog := []
    params := Config.params
    env := Env.empty, freeCount := 0, sched := [], rdata := 0 }

end Sys2Proof.Machine
end

