-- ==== Sys2Proof/Machine/Flags.lean ====
section
/-! DEFINITION. STATUS as the HOST reads it, and every change of its fields that the spec gives
(10_state.md R18, R59): at an issue, at an end, at a fault, at a capture, and the single fields. -/

namespace Sys2Proof.Machine

/-- One bit as a number. -/
def bitVal (b : Bool) (k : Nat) : Nat := if b then 2 ^ k else 0

/-- STATUS as a byte: BUSY, DONE, ERR, OVR, OPEN, OUTV, TMO, WAITIN from bit 0 to bit 7 (R18). -/
def Status.toByte (st : Status) : Byte :=
  BitVec.ofNat 8
    (bitVal st.busy 0 + bitVal st.done 1 + bitVal st.err 2 + bitVal st.ovr 3 +
      bitVal st.opened 4 + bitVal st.outv 5 + bitVal st.tmo 6 + bitVal st.waitin 7)

/-- The flags an issue writes: BUSY set; DONE, ERR and OVR cleared; no other (40_control.md R106). -/
def Status.onIssue (st : Status) : Status :=
  { st with busy := true, done := false, err := false, ovr := false }

/-- The flags the end of an operation writes (40_control.md R108). -/
def Status.onEnd (st : Status) : Status :=
  { st with busy := false, done := true, waitin := false }

/-- The flags a fault writes (60_exceptions.md R171). -/
def Status.onFault (st : Status) : Status :=
  { st with err := true, done := true, busy := false, waitin := false }

/-- TMO after a capture: 0 for a response, 1 for a timeout or a link error (43_transport.md R137). -/
def tmoOf : RxOutcome → Bool
  | .data _ => false
  | .timeout => true
  | .linkError => true

/-- OVR set: a HOST write was dropped (20_memory.md R64). -/
def State.setOvr (s : State) : State :=
  { s with status := { s.status with ovr := true } }

/-- WAITIN set: SEED_STREAM waits for a chunk (45_supplementary.md R164). -/
def State.setWaitin (s : State) : State :=
  { s with status := { s.status with waitin := true } }

/-- OUTV set: the output image was emitted (44_sequencer.md R157). -/
def State.setOutv (s : State) : State :=
  { s with status := { s.status with outv := true } }

end Sys2Proof.Machine
end

