-- ==== Sys2Proof/Syntax.lean ====
section
/-! DEFINITION. The instructions: one constructor for each row of spec/opcode_table.json. The first 20
are the operations a HOST issues (30_encoding.md R80, R81), with the argument bytes each of them takes
(R79) and no other; the last 16 are the wire frames the CORE transmits (R90 to R104), with their payload. -/

namespace Sys2Proof

/-- One constructor per row of spec/opcode_table.json, in the table's order. -/
inductive Instr where
  /-- NOP, OPC 0x00 (R109). -/
  | nop
  /-- CRC_INIT, OPC 0x10 (R115). -/
  | crcInit
  /-- CRC_BYTE, OPC 0x11: argument A is the data byte (R116). -/
  | crcByte (b : Byte)
  /-- CRC_FINAL, OPC 0x12 (R117). -/
  | crcFinal
  /-- CRC_BLOB, OPC 0x13 (R118). -/
  | crcBlob
  /-- KDF, OPC 0x20: bit 0 of argument A selects the read key (R132). -/
  | kdf (readKey : Bool)
  /-- PATCH, OPC 0x30 (R145). -/
  | patch
  /-- OPEN, OPC 0x40 (R139). -/
  | openDev
  /-- CLOSE, OPC 0x41 (R140). -/
  | closeDev
  /-- SEND, OPC 0x42: A the form, B the command byte, C the payload length (R141). -/
  | send (form cmd len : Byte)
  /-- RECV, OPC 0x43: A selects the timeout (R142). -/
  | recv (sel : Byte)
  /-- RECV_RETRY, OPC 0x44: A is the number of attempts, 0 selecting `P_TRIES` (R143). -/
  | recvRetry (n : Byte)
  /-- CONFIGURE, OPC 0x50 (R146). -/
  | configure
  /-- RNG_STREAM, OPC 0x60 (R163). -/
  | rngStream
  /-- SEED_STREAM, OPC 0x61 (R164). -/
  | seedStream
  /-- WIPE, OPC 0x62 (R166). -/
  | wipe
  /-- WINK, OPC 0x63 (R167). -/
  | wink
  /-- BOOT, OPC 0x64 (R168). -/
  | boot
  /-- BOOT_DESTROY, OPC 0x65 (R169). -/
  | bootDestroy
  /-- RESERVED: any OPC value outside the map of R80 (R81, R110). -/
  | reserved (op : Byte)
  /-- WIRE_IS_BUILD: the is-build frame (R91). -/
  | wireIsBuild
  /-- WIRE_GET_SERIAL: the get-serial frame (R92). -/
  | wireGetSerial
  /-- WIRE_IS_CONFIGURED: the is-configured frame (R93). -/
  | wireIsConfigured
  /-- WIRE_LOCK: the lock frame with its two CRC bytes, high byte first (R94). -/
  | wireLock (hi lo : Byte)
  /-- WIRE_GEN_KEY: the gen-key frame (R95). -/
  | wireGenKey
  /-- WIRE_LOAD_TRANS_KEY: the load-transaction-key frame with its 32 key bytes (R96). -/
  | wireLoadTransKey (key : List Byte)
  /-- WIRE_LOAD_WRITE_KEY: the load-write-key frame with its 36 mask bytes (R97). -/
  | wireLoadWriteKey (mask : List Byte)
  /-- WIRE_LOAD_ATTEST_KEY: the load-attestation-key frame with its 32 key bytes (R98). -/
  | wireLoadAttestKey (key : List Byte)
  /-- WIRE_BOOTLOADER_SHORT: the enter-bootloader frame, short form (R99). -/
  | wireBootloaderShort
  /-- WIRE_BOOTLOADER_LONG: the enter-bootloader frame, long form (R99). -/
  | wireBootloaderLong
  /-- WIRE_BOOTLOADER_DESTROY_SHORT: the destroy-bootloader frame, short form (R100). -/
  | wireBootloaderDestroyShort
  /-- WIRE_BOOTLOADER_DESTROY_LONG: the destroy-bootloader frame, long form (R100). -/
  | wireBootloaderDestroyLong
  /-- WIRE_RNG: the RNG frame (R101). -/
  | wireRng
  /-- WIRE_SEED: the seed frame with its chunk of 1 to 20 bytes (R102). -/
  | wireSeed (chunk : List Byte)
  /-- WIRE_WIPE: the wipe frame (R103). -/
  | wireWipe
  /-- WIRE_WINK: the wink frame (R104). -/
  | wireWink
  deriving DecidableEq, Repr

end Sys2Proof
end

