-- ==== Sys2Proof/WellFormed.lean ====
section
/-! DEFINITION. Which terms of Instr the encodings of the spec can write: a RESERVED operation has an
OPC value outside the map (30_encoding.md R81), and a frame's payload has the length its command's rule
gives (R96, R97, R98, R102). -/

namespace Sys2Proof

/-- The OPC values that have an operation, in the order of R80. -/
def mappedOpcodes : List Byte :=
  [0x00, 0x10, 0x11, 0x12, 0x13, 0x20, 0x30, 0x40, 0x41, 0x42, 0x43, 0x44, 0x50,
   0x60, 0x61, 0x62, 0x63, 0x64, 0x65]

/-- A term that the encodings can write. -/
def Instr.wellFormed : Instr → Bool
  | .nop => true
  | .crcInit => true
  | .crcByte _ => true
  | .crcFinal => true
  | .crcBlob => true
  | .kdf _ => true
  | .patch => true
  | .openDev => true
  | .closeDev => true
  | .send _ _ _ => true
  | .recv _ => true
  | .recvRetry _ => true
  | .configure => true
  | .rngStream => true
  | .seedStream => true
  | .wipe => true
  | .wink => true
  | .boot => true
  | .bootDestroy => true
  | .reserved op => !mappedOpcodes.contains op
  | .wireIsBuild => true
  | .wireGetSerial => true
  | .wireIsConfigured => true
  | .wireLock _ _ => true
  | .wireGenKey => true
  | .wireLoadTransKey key => key.length == 32
  | .wireLoadWriteKey mask => mask.length == 36
  | .wireLoadAttestKey key => key.length == 32
  | .wireBootloaderShort => true
  | .wireBootloaderLong => true
  | .wireBootloaderDestroyShort => true
  | .wireBootloaderDestroyLong => true
  | .wireRng => true
  | .wireSeed chunk => decide (1 ≤ chunk.length) && decide (chunk.length ≤ 20)
  | .wireWipe => true
  | .wireWink => true

/-- The rows a HOST issues as a command word of four bytes (F_CMD, R77); the others are frames. -/
def Instr.isCommand : Instr → Bool
  | .nop => true
  | .crcInit => true
  | .crcByte _ => true
  | .crcFinal => true
  | .crcBlob => true
  | .kdf _ => true
  | .patch => true
  | .openDev => true
  | .closeDev => true
  | .send _ _ _ => true
  | .recv _ => true
  | .recvRetry _ => true
  | .configure => true
  | .rngStream => true
  | .seedStream => true
  | .wipe => true
  | .wink => true
  | .boot => true
  | .bootDestroy => true
  | .reserved _ => true
  | .wireIsBuild => false
  | .wireGetSerial => false
  | .wireIsConfigured => false
  | .wireLock _ _ => false
  | .wireGenKey => false
  | .wireLoadTransKey _ => false
  | .wireLoadWriteKey _ => false
  | .wireLoadAttestKey _ => false
  | .wireBootloaderShort => false
  | .wireBootloaderLong => false
  | .wireBootloaderDestroyShort => false
  | .wireBootloaderDestroyLong => false
  | .wireRng => false
  | .wireSeed _ => false
  | .wireWipe => false
  | .wireWink => false

end Sys2Proof
end

