-- ==== Sys2Proof/Decode.lean ====
section
/-! DEFINITION. The decoders, total on any bytes and rejecting by name, then the encoder, both written
from the encoding tables of 30_encoding.md. Two encodings exist: the command word F_CMD of four bytes
(R77 to R82), which the HOST issues, and the wire frames WIRE_SHORT and WIRE_LONG (R85 to R104), which
the CORE transmits. -/

namespace Sys2Proof

/-- Why a decoder refuses its bytes. -/
inductive DecodeError where
  /-- A command word is four bytes (R82); this many were given. -/
  | notFourBytes (n : Nat)
  /-- Byte 0 of every frame is the report id 0x00 (R85). -/
  | badReportId
  /-- A frame is two to 64 bytes, report id and header included (R85); this many were given. -/
  | badFrameLength (n : Nat)
  /-- No wire command of this form has this identifier (R90). -/
  | unknownCommand (c : Byte)
  /-- The payload is not of the length the command's rule gives (R91 to R104). -/
  | badPayload
  deriving DecidableEq, Repr

/-! ## Command words -/

/-- The operation a command word selects, with the arguments it takes (R79, R80). The bytes are OPC, A,
B and C, in the order of the window (R77); every OPC value outside the map is RESERVED (R81). -/
def decodeWord (op a b c : Byte) : Instr :=
  match op.toNat with
  | 0x00 => .nop
  | 0x10 => .crcInit
  | 0x11 => .crcByte a
  | 0x12 => .crcFinal
  | 0x13 => .crcBlob
  | 0x20 => .kdf (a.getLsbD 0)
  | 0x30 => .patch
  | 0x40 => .openDev
  | 0x41 => .closeDev
  | 0x42 => .send a b c
  | 0x43 => .recv a
  | 0x44 => .recvRetry a
  | 0x50 => .configure
  | 0x60 => .rngStream
  | 0x61 => .seedStream
  | 0x62 => .wipe
  | 0x63 => .wink
  | 0x64 => .boot
  | 0x65 => .bootDestroy
  | _ => .reserved op

/-- Decode the four bytes of a command word, the byte of the lowest offset first (R77). -/
def decodeCommand : List Byte → Except DecodeError Instr
  | [op, a, b, c] => .ok (decodeWord op a b c)
  | bs => .error (.notFourBytes bs.length)

/-! ## Frames -/

/-- `pad64` of R9: zero bytes up to 64. The cut at 64 makes the length 64 for every argument; R9 defines
the function for at most 64 bytes, where nothing is cut. -/
def pad64 (s : List Byte) : List Byte :=
  (s ++ List.replicate (64 - s.length) 0).take 64

/-- The meaningful bytes of `short(c, p)`: report id, command, payload (R86). -/
def shortBytes (c : Byte) (p : List Byte) : List Byte := 0x00 :: c :: p

/-- The two length bytes of the long form when `P_LONG_BCNT` is true, high byte first (R87). -/
def bcntBytes (bcnt : Bool) (n : Nat) : List Byte :=
  if bcnt then [BitVec.ofNat 8 (n / 256), BitVec.ofNat 8 n] else []

/-- The meaningful bytes of `long(c, p)`: report id, the channel-broadcast bytes, command, the length
bytes of the variant, payload (R87). -/
def longBytes (bcnt : Bool) (c : Byte) (p : List Byte) : List Byte :=
  0x00 :: 0xFF :: 0xFF :: 0xFF :: 0xFF :: c :: (bcntBytes bcnt p.length ++ p)

/-- A frame whose command takes no payload. -/
def withNoPayload (i : Instr) (p : List Byte) : Except DecodeError Instr :=
  if p = [] then .ok i else .error .badPayload

/-- A frame whose command takes a payload of `n` bytes. -/
def withPayload (n : Nat) (mk : List Byte → Instr) (p : List Byte) : Except DecodeError Instr :=
  if p.length = n then .ok (mk p) else .error .badPayload

/-- The lock frame's payload is two bytes (R94). -/
def lockPayload : List Byte → Except DecodeError Instr
  | [hi, lo] => .ok (.wireLock hi lo)
  | _ => .error .badPayload

/-- The seed frame's payload is 1 to 20 bytes (R102). -/
def seedPayload (p : List Byte) : Except DecodeError Instr :=
  if 1 ≤ p.length ∧ p.length ≤ 20 then .ok (.wireSeed p) else .error .badPayload

/-- The wire command of a short frame, the first of R90's list that has the identifier. -/
def decodeShort (ids : CmdIds) (c : Byte) (p : List Byte) : Except DecodeError Instr :=
  if c = ids.isBuild then withNoPayload .wireIsBuild p
  else if c = ids.getSerial then withNoPayload .wireGetSerial p
  else if c = ids.isConfigured then withNoPayload .wireIsConfigured p
  else if c = ids.lock then lockPayload p
  else if c = ids.genKey then withNoPayload .wireGenKey p
  else if c = ids.loadTransKey then withPayload 32 .wireLoadTransKey p
  else if c = ids.loadWriteKey then withPayload 36 .wireLoadWriteKey p
  else if c = ids.loadAttestKey then withPayload 32 .wireLoadAttestKey p
  else if c = ids.bootloader then withNoPayload .wireBootloaderShort p
  else if c = ids.bootloaderDestroy then withNoPayload .wireBootloaderDestroyShort p
  else .error (.unknownCommand c)

/-- The wire command of a long frame, the first of R90's list that has the identifier. -/
def decodeLong (ids : CmdIds) (c : Byte) (p : List Byte) : Except DecodeError Instr :=
  if c = ids.bootloader then withNoPayload .wireBootloaderLong p
  else if c = ids.bootloaderDestroy then withNoPayload .wireBootloaderDestroyLong p
  else if c = ids.rng then withNoPayload .wireRng p
  else if c = ids.seed then seedPayload p
  else if c = ids.wipe then withNoPayload .wireWipe p
  else if c = ids.wink then withNoPayload .wireWink p
  else .error (.unknownCommand c)

/-- Take the length bytes of the long form's variant off, where they agree with the payload. -/
def dropBcnt (bcnt : Bool) (rest : List Byte) : Except DecodeError (List Byte) :=
  match bcnt, rest with
  | false, p => .ok p
  | true, hi :: lo :: p =>
    if [hi, lo] = bcntBytes true p.length then .ok p else .error .badPayload
  | true, _ => .error .badPayload

/-- Decode the meaningful bytes of a frame (R85 to R87), those that TXLEN counts. Bytes 1 to 4 all 0xFF
are the channel-broadcast bytes of the long form. -/
def decodeFrame (p : Params) (bs : List Byte) : Except DecodeError Instr :=
  if 64 < bs.length then .error (.badFrameLength bs.length)
  else
    match bs with
    | 0x00#8 :: 0xFF#8 :: 0xFF#8 :: 0xFF#8 :: 0xFF#8 :: c :: rest =>
      match dropBcnt p.longBcnt rest with
      | .ok pl => decodeLong p.cmd c pl
      | .error e => .error e
    | 0x00#8 :: c :: pl => decodeShort p.cmd c pl
    | _ :: _ :: _ => .error .badReportId
    | short => .error (.badFrameLength short.length)

/-! ## The table's words -/

/-- The four bytes of a command word given as a number, most significant first: OPC is bits 31:24 (R77). -/
def commandBytes (w : Nat) : List Byte :=
  [BitVec.ofNat 8 (w >>> 24), BitVec.ofNat 8 (w >>> 16), BitVec.ofNat 8 (w >>> 8), BitVec.ofNat 8 w]

/-- `n` bytes of a number, byte `k` being bits `8k+7 .. 8k`. -/
def bytesOfNat (n w : Nat) : List Byte :=
  (List.range n).map fun k => BitVec.ofNat 8 (w >>> (8 * k))

/-- What the decoder reads from an instruction whose bits are `w`: a command word where there are 32 of
them (R77), or, for any other number, a wire frame of `nbits / 8` meaningful bytes (R85). -/
def decodeTableWord (nbits w : Nat) : Option Instr :=
  if nbits = 32 then (decodeCommand (commandBytes w)).toOption
  else (decodeFrame Config.params (bytesOfNat (nbits / 8) w)).toOption

/-! ## The encoder -/

/-- The bytes of a command word, an argument the operation ignores being 0x00 (R78, R79, R83). -/
def encodeCommand (op a b c : Byte) : List Byte := [op, a, b, c]

/-- The encoding of an instruction: the four bytes of a command word (R77, R80), or the meaningful bytes
of a frame, before its zero padding (R85 to R104). -/
def encode (p : Params) : Instr → List Byte
  | .nop => encodeCommand 0x00 0 0 0
  | .crcInit => encodeCommand 0x10 0 0 0
  | .crcByte b => encodeCommand 0x11 b 0 0
  | .crcFinal => encodeCommand 0x12 0 0 0
  | .crcBlob => encodeCommand 0x13 0 0 0
  | .kdf readKey => encodeCommand 0x20 (if readKey then 1 else 0) 0 0
  | .patch => encodeCommand 0x30 0 0 0
  | .openDev => encodeCommand 0x40 0 0 0
  | .closeDev => encodeCommand 0x41 0 0 0
  | .send form cmd len => encodeCommand 0x42 form cmd len
  | .recv sel => encodeCommand 0x43 sel 0 0
  | .recvRetry n => encodeCommand 0x44 n 0 0
  | .configure => encodeCommand 0x50 0 0 0
  | .rngStream => encodeCommand 0x60 0 0 0
  | .seedStream => encodeCommand 0x61 0 0 0
  | .wipe => encodeCommand 0x62 0 0 0
  | .wink => encodeCommand 0x63 0 0 0
  | .boot => encodeCommand 0x64 0 0 0
  | .bootDestroy => encodeCommand 0x65 0 0 0
  | .reserved op => encodeCommand op 0 0 0
  | .wireIsBuild => shortBytes p.cmd.isBuild []
  | .wireGetSerial => shortBytes p.cmd.getSerial []
  | .wireIsConfigured => shortBytes p.cmd.isConfigured []
  | .wireLock hi lo => shortBytes p.cmd.lock [hi, lo]
  | .wireGenKey => shortBytes p.cmd.genKey []
  | .wireLoadTransKey key => shortBytes p.cmd.loadTransKey key
  | .wireLoadWriteKey mask => shortBytes p.cmd.loadWriteKey mask
  | .wireLoadAttestKey key => shortBytes p.cmd.loadAttestKey key
  | .wireBootloaderShort => shortBytes p.cmd.bootloader []
  | .wireBootloaderLong => longBytes p.longBcnt p.cmd.bootloader []
  | .wireBootloaderDestroyShort => shortBytes p.cmd.bootloaderDestroy []
  | .wireBootloaderDestroyLong => longBytes p.longBcnt p.cmd.bootloaderDestroy []
  | .wireRng => longBytes p.longBcnt p.cmd.rng []
  | .wireSeed chunk => longBytes p.longBcnt p.cmd.seed chunk
  | .wireWipe => longBytes p.longBcnt p.cmd.wipe []
  | .wireWink => longBytes p.longBcnt p.cmd.wink []

end Sys2Proof
end

