-- ==== Sys2Proof/Machine/Operands.lean ====
section
/-! DEFINITION. What the operations take from their latched arguments and length registers
(30_encoding.md R78, R79): forms, limits, timeouts, attempt counts, and the fields of a response. -/

namespace Sys2Proof.Machine

/-- The longest payload of a short frame (30_encoding.md R86). -/
def shortMax : Nat := 62

/-- The longest payload of a long frame: 58 bytes, or 56 with the length bytes of the variant (R87). -/
def longMax (bcnt : Bool) : Nat := if bcnt then 56 else 58

/-- The timeout RECV's argument A selects (43_transport.md R142): none for a bad argument. -/
def recvTimeout (sel : Byte) : Option Timeout :=
  if sel = 0 then some .cfg else if sel = 1 then some .wipe else none

/-- The attempts of RECV_RETRY: argument A, 0 selecting `P_TRIES` (43_transport.md R143). -/
def retryCount (n : Byte) : Byte := if n = 0 then Config.tries else n

/-- The time a wait is bounded by, in milliseconds; INF has none (43_transport.md R136, R196). -/
def Timeout.ms : Timeout → Option Nat
  | .cfg => some Config.tCfgMs
  | .wipe => some Config.tWipeMs
  | .inf => none

/-- Whether the TOKEN may deliver an outcome at a wait (43_transport.md R136): a response of 1 to 64
bytes, a link error, and on a finite wait a timeout. -/
def enabledAt : Timeout → RxOutcome → Bool
  | _, .data b => decide (1 ≤ b.length) && decide (b.length ≤ Config.respMax)
  | .cfg, .timeout => true
  | .wipe, .timeout => true
  | .inf, .timeout => false
  | _, .linkError => true

/-- The response a capture stores: the bytes received, or none after a failure (43_transport.md R137). -/
def responseBytes : RxOutcome → List Byte
  | .data b => b
  | .timeout => []
  | .linkError => []

/-- RESULT after a capture (10_state.md R31, 43_transport.md R137). -/
def resultOf : RxOutcome → Byte
  | .data _ => 0x01
  | .timeout => 0x00
  | .linkError => 0x02

/-- KEYFLAGS.WSUP: the caller supplies the write key (10_state.md R27). -/
def wsup (s : State) : Bool := s.keyFlags.getLsbD 0

/-- KEYFLAGS.RSUP: the caller supplies the read key (10_state.md R27). -/
def rsup (s : State) : Bool := s.keyFlags.getLsbD 1

/-- The tokens OPEN may take (43_transport.md R139, 30_encoding.md R105): vendor and product match, and
the whole serial equals the filter where there is one. -/
def matching (p : Params) (filter : Option (List Byte)) (attached : List Token) : List Token :=
  attached.filter fun d =>
    decide (d.vid = p.vid) && decide (d.pid = p.pid) &&
      (match filter with
       | none => true
       | some f => decide (d.serial = f))

/-- The ENVIRONMENT's choice among the matching tokens: the counter runs round their list, so that every
one of them can be chosen and nothing else can (43_transport.md R139, U10). -/
def pickToken (ts : List Token) (k : Nat) : Option Token := ts[k % ts.length]?

end Sys2Proof.Machine
end

