-- ==== Sys2Proof/Machine/Ops.lean ====
section
/-! DEFINITION. The named operations the meanings are written over: the buffers' memory, the answers of
the TOKEN and the ENVIRONMENT, issue, end and fault, the link's primitives and the output port. -/

namespace Sys2Proof.Machine

/-! ## Memory: the buffers of the window -/

/-- What a byte of the buffers that nothing has written reads as: 0x00, their reset contents
(70_reset_and_hazards.md R186). -/
def Memory.unlisted : Byte := 0

/-- Read one byte. -/
def Memory.read : List Host.Cell → Nat → Byte
  | [], _ => Memory.unlisted
  | (b, v) :: r, a => if a = b then v else Memory.read r a

/-- The entry of a byte: none for the value an unlisted address reads as. -/
def Memory.entry (a : Nat) (v : Byte) : List Host.Cell :=
  if v = Memory.unlisted then [] else [(a, v)]

/-- Write one byte, at its place in the rising order, and drop every other entry of the address. -/
def Memory.write : List Host.Cell → Nat → Byte → List Host.Cell
  | [], a, v => Memory.entry a v
  | (b, w) :: r, a, v =>
    if b < a then (b, w) :: Memory.write r a v
    else Memory.entry a v ++ ((b, w) :: r).filter fun c => decide (c.1 ≠ a)

/-- Write bytes from an address upwards. -/
def Memory.writeBytes (m : List Host.Cell) (base : Nat) : List Byte → List Host.Cell
  | [] => m
  | v :: vs => Memory.writeBytes (Memory.write m base v) (base + 1) vs

/-- Read `n` bytes from an address upwards. -/
def Memory.readBytes (m : List Host.Cell) (base n : Nat) : List Byte :=
  (List.range n).map fun i => Memory.read m (base + i)

/-- The canonical form: addresses strictly rising, and no entry that reads as an unlisted address does. -/
def Memory.wf : List Host.Cell → Bool
  | [] => true
  | [(_, v)] => decide (v ≠ Memory.unlisted)
  | (a, v) :: (b, w) :: r =>
    decide (v ≠ Memory.unlisted) && decide (a < b) && Memory.wf ((b, w) :: r)

/-- Offset of TXBUF (10_state.md R39). -/
abbrev txBase : Nat := 0x040
/-- Offset of RXBUF (R40). -/
abbrev rxBase : Nat := 0x080
/-- Offset of PAYLOAD (R41). -/
abbrev payloadBase : Nat := 0x0C0
/-- Offset of CFG (R42). -/
abbrev cfgBase : Nat := 0x100
/-- Offset of SERIAL (R43). -/
abbrev serialBase : Nat := 0x180
/-- Offset of WKEY (R44). -/
abbrev wkeyBase : Nat := 0x200
/-- Offset of RKEY (R44). -/
abbrev rkeyBase : Nat := 0x220
/-- Offset of ATTKEY (R45). -/
abbrev attkeyBase : Nat := 0x240
/-- Offset of WMASK (R46). -/
abbrev wmaskBase : Nat := 0x260
/-- Offset of RMASK (R46). -/
abbrev rmaskBase : Nat := 0x2A0
/-- Offset of DIGEST1 (R47). -/
abbrev digest1Base : Nat := 0x2E0
/-- Offset of DIGEST2 (R47). -/
abbrev digest2Base : Nat := 0x300
/-- Offset of SEED_CHUNK (R48). -/
abbrev chunkBase : Nat := 0x320
/-- Offset of FILTER (R49). -/
abbrev filterBase : Nat := 0x340

/-- A buffer's first `n` bytes. -/
def State.buf (s : State) (base n : Nat) : List Byte := Memory.readBytes s.mem base n

/-- Byte `i` of RXBUF (R40). -/
def State.rx (s : State) (i : Nat) : Byte := Memory.read s.mem (rxBase + i)

/-- Write a buffer from its first byte on. -/
def State.setBuf (s : State) (base : Nat) (bs : List Byte) : State :=
  { s with mem := Memory.writeBytes s.mem base bs }

/-! ## The answers of the TOKEN and the ENVIRONMENT

Each answer is the head of its list in `env`; where the list is empty it is the free value of Config at
the counter `freeCount` (assumption 2). -/

/-- How far the counter of free answers moves: one where the list has run out. -/
def freeStep {α : Type} (l : List α) : Nat :=
  match l with
  | [] => 1
  | _ :: _ => 0

/-- The outcome the TOKEN chooses at a Transmit (43_transport.md R135). -/
def txAnswer (s : State) : TxOutcome :=
  match s.env.tx with
  | o :: _ => o
  | [] => Config.freeTx s.freeCount

/-- The TOKEN's answer to an Await (43_transport.md R136). -/
def tokenAnswer (s : State) : TokenAnswer :=
  match s.env.rx with
  | o :: _ => o
  | [] => Config.freeRx s.freeCount

/-- The next entropy draw (44_sequencer.md R152). -/
def drawAnswer (s : State) : Draw :=
  match s.env.draws with
  | d :: _ => d
  | [] => Config.freeDraw s.freeCount

/-- The ENVIRONMENT's answer to an OPEN (43_transport.md R139). -/
def openAnswer (s : State) : OpenAnswer :=
  match s.env.opens with
  | a :: _ => a
  | [] => Config.freeOpen s.freeCount

/-- Whether a pending cancel comes before a committed chunk (60_exceptions.md R176). -/
def orderAnswer (s : State) : Bool :=
  match s.env.order with
  | b :: _ => b
  | [] => Config.freeOrder s.freeCount

/-- The state once the Transmit's outcome is taken. -/
def State.dropTx (s : State) : State :=
  { s with env := { s.env with tx := s.env.tx.tail }, freeCount := s.freeCount + freeStep s.env.tx }

/-- The state once the Await's answer is taken. -/
def State.dropRx (s : State) : State :=
  { s with env := { s.env with rx := s.env.rx.tail }, freeCount := s.freeCount + freeStep s.env.rx }

/-- The state once the draw is taken. -/
def State.dropDraw (s : State) : State :=
  { s with env := { s.env with draws := s.env.draws.tail }
           freeCount := s.freeCount + freeStep s.env.draws }

/-- The state once the answer to an OPEN is taken. -/
def State.dropOpen (s : State) : State :=
  { s with env := { s.env with opens := s.env.opens.tail }
           freeCount := s.freeCount + freeStep s.env.opens }

/-- The state once the order of cancel and chunk is taken. -/
def State.dropOrder (s : State) : State :=
  { s with env := { s.env with order := s.env.order.tail }
           freeCount := s.freeCount + freeStep s.env.order }

/-- What a wait comes to where the TOKEN delivers nothing that the wait admits: a finite one ends in `Timeout`
at worst (70_reset_and_hazards.md R197), and an unbounded one goes on (43_transport.md R136). -/
def expiry : Timeout → Option RxOutcome
  | .cfg => some .timeout
  | .wipe => some .timeout
  | .inf => none

/-- The outcome delivered at a wait, if one is (43_transport.md R136, 70_reset_and_hazards.md R197): the
TOKEN's, where the wait admits it, and else what the wait comes to without one. -/
def delivered (t : Timeout) (s : State) : Option RxOutcome :=
  match tokenAnswer s with
  | .deliver o => if enabledAt t o then some o else expiry t
  | .silent => expiry t

/-! ## Faults: taking one, and what follows it -/

/-- The code of a fault or diagnostic (60_exceptions.md R170). -/
def ErrName.code : ErrName → Byte
  | .deviceNotFound => 0x01
  | .notConfigured => 0x02
  | .protocolMismatch => 0x03
  | .lockFailed => 0x04
  | .keyLoadFailed => 0x05
  | .invalidAttestationKey => 0x06
  | .bootloaderTransitionFailed => 0x07
  | .ioTimeout => 0x08
  | .illegalOp => 0x10
  | .noSession => 0x11
  | .sessionBusy => 0x12
  | .badArgument => 0x13
  | .linkError => 0x14

/-- The OPC value of CONFIGURE (30_encoding.md R80). -/
def opcConfigure : Byte := 0x50

/-- The OPC value of SEED_STREAM (30_encoding.md R80). -/
def opcSeedStream : Byte := 0x61

/-- Fault entry, `raise Fault(code)` (60_exceptions.md R171): the code and the configuration step are
saved, ERR and DONE set, BUSY and WAITIN cleared, the CORE goes idle; nothing else is written. -/
def State.raise (e : ErrName) (s : State) : State :=
  { s with
    errCode := e.code
    errStep := if s.opl = opcConfigure then s.seqStep else 0
    status := s.status.onFault
    phase := .idle
    att := 0 }

/-- The end without a fault, `End()` (40_control.md R108). -/
def State.finish (s : State) : State :=
  { s with status := s.status.onEnd, phase := .idle, att := 0 }

/-- The issue of an operation while no operation runs (40_control.md R106). There is no return from a
fault (60_exceptions.md R173): the next issue is what clears ERR, ERR_CODE and ERR_STEP. -/
def State.issue (v : Byte) (s : State) : State :=
  { s with
    opc := v
    opl := v
    al := s.argA
    bl := s.argB
    cl := s.argC
    status := s.status.onIssue
    errCode := 0x00
    errStep := 0x00
    cancelReq := false
    phase := .ready .start }

/-! ## The output port and the diagnostics -/

/-- `CANCEL_REQ <- 0`: a stream has taken the cancel (45_supplementary.md R161). -/
def State.clearCancel (s : State) : State := { s with cancelReq := false }

/-- `Emit(e)` (10_state.md R56). -/
def State.emit (e : OutEvent) (s : State) : State := { s with outLog := s.outLog ++ [e] }

/-- `Diag(code)`, a per-iteration error of a stream (45_supplementary.md R162). -/
def State.diag (e : ErrName) (s : State) : State :=
  { s with
    diagCount := s.diagCount + 1
    lastDiag := e.code
    outLog := s.outLog ++ [.diag e.code] }

/-! ## The link -/

/-- `Transmit` of the frame whose meaningful bytes are given (43_transport.md R135): TXBUF holds the frame
padded to 64 bytes, TXLEN the length before padding, and LINK_LOG the frame with the TOKEN's outcome,
which is `txAnswer s`. -/
def State.transmit (bs : List Byte) (s : State) : State :=
  { s with
    mem := Memory.writeBytes s.mem txBase (pad64 bs)
    txLen := BitVec.ofNat 8 bs.length
    linkLog := s.linkLog ++ [.tx (pad64 bs) (txAnswer s)]
    env := { s.env with tx := s.env.tx.tail }
    freeCount := s.freeCount + freeStep s.env.tx }

/-- `Await(t)`: the CORE step ends, to go on just after the await (43_transport.md R136). -/
def State.awaitFor (t : Timeout) (s : State) : State := { s with phase := .await t .afterAwait }

/-- `TRIES <- n` (10_state.md R23). -/
def State.setTries (n : Byte) (s : State) : State := { s with tries := n }

/-- `ATT <- a ; TRIES <- a` (43_transport.md R143, 44_sequencer.md R149). -/
def State.setAttempt (a : Byte) (s : State) : State := { s with att := a, tries := a }

/-- Start attempt `a` of a bounded-retry read: ATT and TRIES, then the await of 1000 ms (43_transport.md
R143, 44_sequencer.md R149). -/
def State.attempt (a : Byte) (s : State) : State := (s.setAttempt a).awaitFor .cfg

/-- `Capture(o)` (43_transport.md R137). -/
def State.capture (o : RxOutcome) (s : State) : State :=
  { s with
    mem := Memory.writeBytes s.mem rxBase (pad64 (responseBytes o))
    rxLen := BitVec.ofNat 8 (responseBytes o).length
    result := resultOf o
    status := { s.status with tmo := tmoOf o } }

/-- The delivery of an outcome (43_transport.md R136) with the capture that follows it at once (R137):
LINK_LOG gains the outcome, and the answer is taken. -/
def State.receive (o : RxOutcome) (s : State) : State :=
  State.capture o { s.dropRx with linkLog := s.linkLog ++ [.rx o] }

/-- An unbounded wait goes on: the TOKEN delivered nothing at this step, and nothing else changes. -/
def State.keepWaiting (s : State) : State := s.dropRx

/-- Go on with a Transmit's outcome: a link error is a fault (43_transport.md R135, D17). -/
def afterTransmit (o : TxOutcome) (k : State → State) (s : State) : State :=
  match o with
  | .sent => k s
  | .linkError => s.raise .linkError

/-- The session check that comes first in every link operation (43_transport.md R138). -/
def needSession (k : State → State) (s : State) : State :=
  if s.status.opened then k s else s.raise .noSession

end Sys2Proof.Machine
end

