-- ==== Sys2Proof/Machine/Control.lean ====
section
/-! DEFINITION. The operations of 40_control.md: NOP and the reserved codes. -/

namespace Sys2Proof.Machine

/-- NOP (40_control.md R109). -/
def execNop (s : State) : Host.Outcome State Fault Refusal := .next s.finish

/-- A reserved operation code (40_control.md R110): the fault IllegalOp, before any other state is read
or written. The code itself is not examined further. -/
def execReserved (_op : Byte) (s : State) : Host.Outcome State Fault Refusal :=
  .next (s.raise .illegalOp)

end Sys2Proof.Machine
end

