-- ==== Sys2Proof/Machine/Crc.lean ====
section
/-! DEFINITION. The CRC unit (41_crc.md): the functions of R112 to R114 and the four operations that
expose them. -/

namespace Sys2Proof.Machine

/-- One of the eight shifts of `crc_step` (41_crc.md R112). -/
def crcShift (a : Word16) : Word16 :=
  if a.getLsbD 0 then (a >>> 1) ^^^ 0xA001#16 else a >>> 1

/-- A number of shifts, one after another. -/
def crcShifts : Nat → Word16 → Word16
  | 0, a => a
  | n + 1, a => crcShifts n (crcShift a)

/-- `crc_step(acc, b)` (41_crc.md R112). -/
def crcStep (acc : Word16) (b : Byte) : Word16 := crcShifts 8 (acc ^^^ b.setWidth 16)

/-- The accumulator after a byte sequence (41_crc.md R114). -/
def crcFold : Word16 → List Byte → Word16
  | acc, [] => acc
  | acc, b :: bs => crcFold (crcStep acc b) bs

/-- Exchange bits a distance `k` apart under a mask: one of the four swaps of `rev16` (41_crc.md R113). -/
def swapBits (k : Nat) (mask x : Word16) : Word16 :=
  ((x >>> k) &&& mask) ||| ((x &&& mask) <<< k)

/-- `rev16(x)`, the 16-bit bit reversal, by the swaps of single bits, pairs, nibbles and bytes (41_crc.md
R113). -/
def rev16 (x : Word16) : Word16 :=
  swapBits 8 0x00FF#16 (swapBits 4 0x0F0F#16 (swapBits 2 0x3333#16 (swapBits 1 0x5555#16 x)))

/-- `crc16(s)` (41_crc.md R114). -/
def crc16 (bs : List Byte) : Word16 := rev16 (crcFold 0x0000#16 bs)

/-- The high byte of a 16-bit value, the one sent first (20_memory.md R61). -/
def hiByte (x : Word16) : Byte := x.extractLsb' 8 8

/-- The low byte of a 16-bit value. -/
def loByte (x : Word16) : Byte := x.extractLsb' 0 8

/-- `crc16_wire(s)`: the two bytes of the CRC, high byte first (41_crc.md R114). -/
def crc16Wire (bs : List Byte) : List Byte := [hiByte (crc16 bs), loByte (crc16 bs)]

/-- `CRC_ACC <- x` (10_state.md R33). -/
def State.setCrcAcc (x : Word16) (s : State) : State := { s with crcAcc := x }

/-- `CRC_OUT <- x` (10_state.md R34). -/
def State.setCrcOut (x : Word16) (s : State) : State := { s with crcOut := x }

/-- The CRC over the 128 bytes of CFG, with the accumulator kept beside the result (41_crc.md R118,
44_sequencer.md R151). -/
def State.crcBlob (s : State) : State :=
  (s.setCrcAcc (crcFold 0x0000#16 (s.buf cfgBase Config.cfgLen))).setCrcOut
    (crc16 (s.buf cfgBase Config.cfgLen))

/-- CRC_INIT (41_crc.md R115). -/
def execCrcInit (s : State) : Host.Outcome State Fault Refusal :=
  .next (s.setCrcAcc 0x0000#16).finish

/-- CRC_BYTE (41_crc.md R116). -/
def execCrcByte (b : Byte) (s : State) : Host.Outcome State Fault Refusal :=
  .next (s.setCrcAcc (crcStep s.crcAcc b)).finish

/-- CRC_FINAL (41_crc.md R117). -/
def execCrcFinal (s : State) : Host.Outcome State Fault Refusal :=
  .next (s.setCrcOut (rev16 s.crcAcc)).finish

/-- CRC_BLOB (41_crc.md R118). -/
def execCrcBlob (s : State) : Host.Outcome State Fault Refusal := .next s.crcBlob.finish

end Sys2Proof.Machine
end

