-- ==== Sys2Proof/Machine/Kdf.lean ====
section
/-! DEFINITION. The KDF unit (42_sha_kdf.md): SHA-256 as R120 to R126 define it, the two-pass derivation
of R127 to R131, and the operation KDF (R132). -/

namespace Sys2Proof.Machine

/-! ## SHA-256 -/

/-- The 4-byte big-endian encoding of a word (42_sha_kdf.md R126). -/
def be32 (w : Word32) : List Byte :=
  [w.extractLsb' 24 8, w.extractLsb' 16 8, w.extractLsb' 8 8, w.extractLsb' 0 8]

/-- The 8-byte big-endian encoding of a number (R121). -/
def be64 (n : Nat) : List Byte :=
  be32 (BitVec.ofNat 32 (n / 2 ^ 32)) ++ be32 (BitVec.ofNat 32 n)

/-- The least `k` with `l + 1 + k + 8` a multiple of 64 (R121). -/
def padZeros (l : Nat) : Nat := (119 - l % 64) % 64

/-- `pad(M)` (R121). -/
def shaPad (m : List Byte) : List Byte :=
  m ++ [0x80#8] ++ List.replicate (padZeros m.length) 0 ++ be64 (8 * m.length)

/-- The words of a block, four bytes each, the first byte most significant (R121). -/
def wordsOf : List Byte → List Word32
  | b0 :: b1 :: b2 :: b3 :: r => (b0 ++ b1 ++ b2 ++ b3) :: wordsOf r
  | _ => []

/-- The lines of the table of round constants, eight words a line, the first word most significant: line `r`
holds `K_(8r)` to `K_(8r+7)` (R123). -/
def shaKLine : Nat → BitVec 256
  | 0 => 0x428a2f98_71374491_b5c0fbcf_e9b5dba5_3956c25b_59f111f1_923f82a4_ab1c5ed5
  | 1 => 0xd807aa98_12835b01_243185be_550c7dc3_72be5d74_80deb1fe_9bdc06a7_c19bf174
  | 2 => 0xe49b69c1_efbe4786_0fc19dc6_240ca1cc_2de92c6f_4a7484aa_5cb0a9dc_76f988da
  | 3 => 0x983e5152_a831c66d_b00327c8_bf597fc7_c6e00bf3_d5a79147_06ca6351_14292967
  | 4 => 0x27b70a85_2e1b2138_4d2c6dfc_53380d13_650a7354_766a0abb_81c2c92e_92722c85
  | 5 => 0xa2bfe8a1_a81a664b_c24b8b70_c76c51a3_d192e819_d6990624_f40e3585_106aa070
  | 6 => 0x19a4c116_1e376c08_2748774c_34b0bcb5_391c0cb3_4ed8aa4a_5b9cca4f_682e6ff3
  | _ => 0x748f82ee_78a5636f_84c87814_8cc70208_90befffa_a4506ceb_bef9a3f7_c67178f2

/-- The round constant `K_t`, for `t` below 64: word `t % 8` of line `t / 8` (R123). -/
def shaKWord (t : Nat) : Word32 := (shaKLine (t / 8)).extractLsb' (32 * (7 - t % 8)) 32

/-- The round constants `K_0` to `K_63`, in order (R123). -/
def shaK : List Word32 := (List.range 64).map shaKWord

/-- The hash state `H_0` to `H_7`, and the working variables `a` to `h` of a block (R125). -/
structure ShaState where
  a : Word32
  b : Word32
  c : Word32
  d : Word32
  e : Word32
  f : Word32
  g : Word32
  h : Word32
  deriving DecidableEq, Repr

/-- The initial hash value (R122). -/
def shaInit : ShaState :=
  { a := 0x6a09e667, b := 0xbb67ae85, c := 0x3c6ef372, d := 0xa54ff53a
    e := 0x510e527f, f := 0x9b05688c, g := 0x1f83d9ab, h := 0x5be0cd19 }

/-- `ROTR(x, n)` (R120). -/
def rotr (x : Word32) (n : Nat) : Word32 := (x >>> n) ||| (x <<< (32 - n))

/-- `Ch` (R124). -/
def shaCh (x y z : Word32) : Word32 := (x &&& y) ^^^ (~~~x &&& z)

/-- `Maj` (R124). -/
def shaMaj (x y z : Word32) : Word32 := (x &&& y) ^^^ (x &&& z) ^^^ (y &&& z)

/-- `S0`, "Sigma0" (R124). -/
def bigSigma0 (x : Word32) : Word32 := rotr x 2 ^^^ rotr x 13 ^^^ rotr x 22

/-- `S1`, "Sigma1" (R124). -/
def bigSigma1 (x : Word32) : Word32 := rotr x 6 ^^^ rotr x 11 ^^^ rotr x 25

/-- `s0`, "sigma0" (R124). -/
def smallSigma0 (x : Word32) : Word32 := rotr x 7 ^^^ rotr x 18 ^^^ (x >>> 3)

/-- `s1`, "sigma1" (R124). -/
def smallSigma1 (x : Word32) : Word32 := rotr x 17 ^^^ rotr x 19 ^^^ (x >>> 10)

/-- `W_t` from the words before it (R125). -/
def nextWord (w : List Word32) : Word32 :=
  smallSigma1 (w.getD (w.length - 2) 0) + w.getD (w.length - 7) 0 +
    smallSigma0 (w.getD (w.length - 15) 0) + w.getD (w.length - 16) 0

/-- The message schedule with `n` more words (R125). -/
def extendWords : Nat → List Word32 → List Word32
  | 0, w => w
  | n + 1, w => extendWords n (w ++ [nextWord w])

/-- One round of the compression, with `K_t` and `W_t` (R125). -/
def shaRound (v : ShaState) (kw : Word32 × Word32) : ShaState :=
  let t1 := v.h + bigSigma1 v.e + shaCh v.e v.f v.g + kw.1 + kw.2
  let t2 := bigSigma0 v.a + shaMaj v.a v.b v.c
  { a := t1 + t2, b := v.a, c := v.b, d := v.c, e := v.d + t1, f := v.e, g := v.f, h := v.g }

/-- Compress one block of 64 bytes (R125). -/
def shaCompress (v : ShaState) (block : List Byte) : ShaState :=
  let r := (shaK.zip (extendWords 48 (wordsOf block))).foldl shaRound v
  { a := v.a + r.a, b := v.b + r.b, c := v.c + r.c, d := v.d + r.d
    e := v.e + r.e, f := v.f + r.f, g := v.g + r.g, h := v.h + r.h }

/-- The first `n` blocks of 64 bytes (R121). -/
def shaBlocks : Nat → List Byte → List (List Byte)
  | 0, _ => []
  | n + 1, m => m.take 64 :: shaBlocks n (m.drop 64)

/-- `SHA256(M)` (R126). -/
def sha256 (m : List Byte) : List Byte :=
  let padded := shaPad m
  let v := (shaBlocks (padded.length / 64) padded).foldl shaCompress shaInit
  be32 v.a ++ be32 v.b ++ be32 v.c ++ be32 v.d ++ be32 v.e ++ be32 v.f ++ be32 v.g ++ be32 v.h

/-! ## The two-pass derivation -/

/-- SUFFIX, 64 bytes (42_sha_kdf.md R127). -/
def kdfSuffix : List Byte :=
  [0x15, 0x02, 0x01, 0x00, 0xEE, 0x01, 0x23] ++ List.replicate 57 0

/-- Pass 1, `D1(k)` (R128). -/
def digest1 (k : List Byte) : List Byte := sha256 (k ++ kdfSuffix)

/-- Pass 2, `D2(k)`, over the 32 raw bytes of the first digest (R129). -/
def digest2 (k : List Byte) : List Byte := sha256 (digest1 k)

/-- `derive_mask(k)`, 36 raw bytes (R130). -/
def deriveMask (k : List Byte) : List Byte := digest1 k ++ (digest2 k).take 4

/-- A lowercase hexadecimal digit in ASCII (00_scope.md R9). -/
def hexDigit (n : Nat) : Byte :=
  if n < 10 then BitVec.ofNat 8 (0x30 + n) else BitVec.ofNat 8 (0x57 + n)

/-- `hex(s)`: two characters a byte, high nibble first (00_scope.md R9, 42_sha_kdf.md R131). -/
def hexText : List Byte → List Byte
  | [] => []
  | b :: bs => hexDigit (b.toNat / 16) :: hexDigit (b.toNat % 16) :: hexText bs

/-- Write the two digests of a key (42_sha_kdf.md R132). -/
def State.setDigests (k : List Byte) (s : State) : State :=
  (s.setBuf digest1Base (digest1 k)).setBuf digest2Base (digest2 k)

/-- The key that bit 0 of argument A selects (42_sha_kdf.md R132). -/
def selectedKey (readKey : Bool) (s : State) : List Byte :=
  s.buf (if readKey then rkeyBase else wkeyBase) Config.keyLen

/-- Where that key's mask is stored (42_sha_kdf.md R132). -/
def selectedMask (readKey : Bool) : Nat := if readKey then rmaskBase else wmaskBase

/-- KDF (42_sha_kdf.md R132): the selected key's two digests and its mask; the mask of the other key is not
touched. -/
def execKdf (readKey : Bool) (s : State) : Host.Outcome State Fault Refusal :=
  .next ((s.setDigests (selectedKey readKey s)).setBuf (selectedMask readKey)
    (deriveMask (selectedKey readKey s))).finish

end Sys2Proof.Machine
end

