-- ==== Sys2Proof/Machine/Wire.lean ====
section
/-! DEFINITION. The 16 wire frames (30_encoding.md R90 to R104). A frame is no operation the HOST can
issue: the CORE transmits it inside a step of an operation. Its meaning is that `Transmit` (43_transport.md
R135), and the operations of Transport.lean, Sequencer.lean and Supplementary.lean send their frames through
the definitions of this file. The TOKEN's outcome is `txAnswer` of the state before. -/

namespace Sys2Proof.Machine

/-- Transmit `short(c, p)` (30_encoding.md R86, 43_transport.md R135). -/
def State.transmitShort (c : Byte) (p : List Byte) (s : State) : State := s.transmit (shortBytes c p)

/-- Transmit `long(c, p)` (30_encoding.md R87, 43_transport.md R135). -/
def State.transmitLong (c : Byte) (p : List Byte) (s : State) : State :=
  s.transmit (longBytes s.params.longBcnt c p)

/-- Send is-build (R91). -/
def sendIsBuild (s : State) : State := s.transmitShort s.params.cmd.isBuild []
/-- Send get-serial (R92). -/
def sendGetSerial (s : State) : State := s.transmitShort s.params.cmd.getSerial []
/-- Send is-configured (R93). -/
def sendIsConfigured (s : State) : State := s.transmitShort s.params.cmd.isConfigured []
/-- Send lock with the CRC's two bytes, high byte first (R94). -/
def sendLock (hi lo : Byte) (s : State) : State := s.transmitShort s.params.cmd.lock [hi, lo]
/-- Send gen-key (R95). -/
def sendGenKey (s : State) : State := s.transmitShort s.params.cmd.genKey []
/-- Send load-transaction-key (R96). -/
def sendLoadTransKey (key : List Byte) (s : State) : State :=
  s.transmitShort s.params.cmd.loadTransKey key
/-- Send load-write-key (R97; the payload is the 36-byte mask, 90_conflicts.md C1). -/
def sendLoadWriteKey (mask : List Byte) (s : State) : State :=
  s.transmitShort s.params.cmd.loadWriteKey mask
/-- Send load-attestation-key (R98). -/
def sendLoadAttestKey (key : List Byte) (s : State) : State :=
  s.transmitShort s.params.cmd.loadAttestKey key
/-- Send enter-bootloader in the short form (R99). -/
def sendBootloaderShort (s : State) : State := s.transmitShort s.params.cmd.bootloader []
/-- Send enter-bootloader in the long form (R99). -/
def sendBootloaderLong (s : State) : State := s.transmitLong s.params.cmd.bootloader []
/-- Send destroy-bootloader in the short form (R100). -/
def sendBootloaderDestroyShort (s : State) : State := s.transmitShort s.params.cmd.bootloaderDestroy []
/-- Send destroy-bootloader in the long form (R100). -/
def sendBootloaderDestroyLong (s : State) : State := s.transmitLong s.params.cmd.bootloaderDestroy []
/-- Send RNG (R101). -/
def sendRng (s : State) : State := s.transmitLong s.params.cmd.rng []
/-- Send seed with a chunk (R102). -/
def sendSeed (chunk : List Byte) (s : State) : State := s.transmitLong s.params.cmd.seed chunk
/-- Send wipe (R103). -/
def sendWipe (s : State) : State := s.transmitLong s.params.cmd.wipe []
/-- Send wink (R104). -/
def sendWink (s : State) : State := s.transmitLong s.params.cmd.wink []

/-- WIRE_IS_BUILD (R91). -/
def execWireIsBuild (s : State) : Host.Outcome State Fault Refusal := .next (sendIsBuild s)
/-- WIRE_GET_SERIAL (R92). -/
def execWireGetSerial (s : State) : Host.Outcome State Fault Refusal := .next (sendGetSerial s)
/-- WIRE_IS_CONFIGURED (R93): no operation but SEND transmits this frame. -/
def execWireIsConfigured (s : State) : Host.Outcome State Fault Refusal := .next (sendIsConfigured s)
/-- WIRE_LOCK (R94). -/
def execWireLock (hi lo : Byte) (s : State) : Host.Outcome State Fault Refusal :=
  .next (sendLock hi lo s)
/-- WIRE_GEN_KEY (R95): no operation but SEND transmits this frame. -/
def execWireGenKey (s : State) : Host.Outcome State Fault Refusal := .next (sendGenKey s)
/-- WIRE_LOAD_TRANS_KEY (R96). -/
def execWireLoadTransKey (key : List Byte) (s : State) : Host.Outcome State Fault Refusal :=
  .next (sendLoadTransKey key s)
/-- WIRE_LOAD_WRITE_KEY (R97). -/
def execWireLoadWriteKey (mask : List Byte) (s : State) : Host.Outcome State Fault Refusal :=
  .next (sendLoadWriteKey mask s)
/-- WIRE_LOAD_ATTEST_KEY (R98). -/
def execWireLoadAttestKey (key : List Byte) (s : State) : Host.Outcome State Fault Refusal :=
  .next (sendLoadAttestKey key s)
/-- WIRE_BOOTLOADER_SHORT (R99). -/
def execWireBootloaderShort (s : State) : Host.Outcome State Fault Refusal :=
  .next (sendBootloaderShort s)
/-- WIRE_BOOTLOADER_LONG (R99). -/
def execWireBootloaderLong (s : State) : Host.Outcome State Fault Refusal :=
  .next (sendBootloaderLong s)
/-- WIRE_BOOTLOADER_DESTROY_SHORT (R100). -/
def execWireBootloaderDestroyShort (s : State) : Host.Outcome State Fault Refusal :=
  .next (sendBootloaderDestroyShort s)
/-- WIRE_BOOTLOADER_DESTROY_LONG (R100). -/
def execWireBootloaderDestroyLong (s : State) : Host.Outcome State Fault Refusal :=
  .next (sendBootloaderDestroyLong s)
/-- WIRE_RNG (R101). -/
def execWireRng (s : State) : Host.Outcome State Fault Refusal := .next (sendRng s)
/-- WIRE_SEED (R102). -/
def execWireSeed (chunk : List Byte) (s : State) : Host.Outcome State Fault Refusal :=
  .next (sendSeed chunk s)
/-- WIRE_WIPE (R103). -/
def execWireWipe (s : State) : Host.Outcome State Fault Refusal := .next (sendWipe s)
/-- WIRE_WINK (R104). -/
def execWireWink (s : State) : Host.Outcome State Fault Refusal := .next (sendWink s)

end Sys2Proof.Machine
end

