-- ==== Sys2Proof/Machine/Sequencer.lean ====
section
/-! DEFINITION. The sequencer (44_sequencer.md): PATCH, and CONFIGURE with its eleven steps. The step
bodies stand in reverse order, since each goes on with the next. -/

namespace Sys2Proof.Machine

/-- The patched blob: the serial over the first SERIAL_LEN bytes of the template (R145, R150). -/
def patchedBlob (s : State) : List Byte :=
  s.buf serialBase s.serialLen.toNat ++ s.params.template.toList.drop s.serialLen.toNat

/-- PATCH (R145). -/
def execPatch (s : State) : Host.Outcome State Fault Refusal :=
  .next
    (if Config.cfgLen < s.serialLen.toNat then s.raise .badArgument
     else (s.setBuf cfgBase (patchedBlob s)).finish)

/-- `SEQ_STEP <- k` (R146). -/
def State.enterStep (k : Byte) (s : State) : State := { s with seqStep := k }

/-- The first half of `Exchange` (R147): send the frame, fault on a link error, else await 1000 ms. -/
def exchange (send : State → State) (s : State) : State :=
  afterTransmit (txAnswer s) (State.awaitFor .cfg) (send s)

/-- The second half of `Exchange` (R147), after the capture: the checks in their order, then what follows
the exchange. -/
def checkExchange (o : RxOutcome) (e : ErrName) (k : State → State) (s : State) : State :=
  match o with
  | .timeout => s.raise .ioTimeout
  | .linkError => s.raise .linkError
  | .data _ =>
    if s.rxLen.toNat < 2 then s.raise .protocolMismatch
    else if s.rx 1 ≠ 0x01 then s.raise e
    else k s

/-- Step 11 up to its await (R158): the short form only. -/
def cfgStep11 (s : State) : State := exchange sendBootloaderShort (s.enterStep 11)

/-- The output image: two lines of hexadecimal text, each ended by LF (R157). -/
def outputImage (s : State) : List Byte :=
  hexText (s.buf wmaskBase Config.maskLen) ++ [0x0A] ++
    hexText (s.buf rmaskBase Config.maskLen) ++ [0x0A]

/-- Step 10, then step 11 (R157). -/
def cfgStep10 (s : State) : State :=
  cfgStep11 (((s.enterStep 10).emit (.persist (outputImage s))).setOutv)

/-- Step 9 up to its await (R156): the length check comes before any frame of the step. -/
def cfgStep9 (s : State) : State :=
  if s.attkeyLen ≠ 32 then (s.enterStep 9).raise .invalidAttestationKey
  else exchange (sendLoadAttestKey (s.buf attkeyBase Config.keyLen)) (s.enterStep 9)

/-- Step 8 up to its await (R155). -/
def cfgStep8 (s : State) : State :=
  exchange (sendLoadWriteKey (s.buf wmaskBase Config.maskLen)) (s.enterStep 8)

/-- The masks of both keys, and the digests of the read key (R154). -/
def State.deriveMasks (s : State) : State :=
  ((s.setBuf wmaskBase (deriveMask (s.buf wkeyBase Config.keyLen))).setBuf rmaskBase
    (deriveMask (s.buf rkeyBase Config.keyLen))).setDigests (s.buf rkeyBase Config.keyLen)

/-- Step 7, then step 8 (R154). -/
def cfgStep7 (s : State) : State := cfgStep8 (s.enterStep 7).deriveMasks

/-- Step 6 up to its await (R153). -/
def cfgStep6 (s : State) : State :=
  exchange (sendLoadTransKey (s.buf wkeyBase Config.keyLen)) (s.enterStep 6)

/-- `WKEY_LEN <- n` (10_state.md R28). -/
def State.setWkeyLen (n : Byte) (s : State) : State := { s with wkeyLen := n }

/-- `RKEY_LEN <- n` (10_state.md R28). -/
def State.setRkeyLen (n : Byte) (s : State) : State := { s with rkeyLen := n }

/-- `WKEY <- Draw32() ; WKEY_LEN <- 32` (R152). -/
def State.drawWriteKey (s : State) : State :=
  (s.dropDraw.setBuf wkeyBase (drawAnswer s).toList).setWkeyLen 32

/-- `RKEY <- Draw32() ; RKEY_LEN <- 32` (R152). -/
def State.drawReadKey (s : State) : State :=
  (s.dropDraw.setBuf rkeyBase (drawAnswer s).toList).setRkeyLen 32

/-- The read key of step 5, then step 6 (R152). -/
def cfgReadKey (s : State) : State :=
  if rsup s then
    if s.rkeyLen ≠ 32 then s.raise .badArgument else cfgStep6 s
  else cfgStep6 s.drawReadKey

/-- Step 5 (R152): the write key is checked or drawn before the read key. -/
def cfgStep5 (s : State) : State :=
  if wsup s then
    if s.wkeyLen ≠ 32 then (s.enterStep 5).raise .badArgument else cfgReadKey (s.enterStep 5)
  else cfgReadKey (s.enterStep 5).drawWriteKey

/-- Send lock with the two bytes of CRC_OUT, high byte first (R94, R151). -/
def sendLockCrc (s : State) : State := sendLock (hiByte s.crcOut) (loByte s.crcOut) s

/-- Step 4 up to its await (R151): the CRC of the blob, then the lock exchange. -/
def cfgStep4 (s : State) : State := exchange sendLockCrc (s.enterStep 4).crcBlob

/-- Step 3, then step 4 (R150). -/
def cfgStep3 (s : State) : State := cfgStep4 ((s.enterStep 3).setBuf cfgBase (patchedBlob s))

/-- `SERIAL_LEN <- n` (10_state.md R26). -/
def State.setSerialLen (n : Byte) (s : State) : State := { s with serialLen := n }

/-- The serial stored: its bytes, zeros after them, and the length (R149). -/
def State.storeSerial (s : State) : State :=
  (s.setBuf serialBase
    (s.buf (rxBase + 2) (s.rx 1).toNat ++ List.replicate (128 - (s.rx 1).toNat) 0)).setSerialLen
    (s.rx 1)

/-- Step 2 after the accepted response (R149): the serial must have been received whole. -/
def serialAccepted (s : State) : State :=
  if s.rxLen.toNat < 2 then s.raise .protocolMismatch
  else if s.rxLen.toNat < 2 + (s.rx 1).toNat then s.raise .protocolMismatch
  else cfgStep3 s.storeSerial

/-- The attempts of step 2 from attempt `a` on, `n` of them being left and `last` being the last failure
(R149). With `P_SERIAL_RESEND` every attempt but the first sends the request again, and a link error of
that send is a failed attempt. -/
def serialAttempts : Nat → Byte → ErrName → State → State
  | 0, _, last, s => s.raise last
  | n + 1, a, _, s =>
    if a ≠ 1 ∧ s.params.serialResend = true then
      match txAnswer s with
      | .sent => (sendGetSerial (s.setAttempt a)).awaitFor .cfg
      | .linkError =>
        serialAttempts n (a + 1) .linkError (sendGetSerial (s.setAttempt a))
    else s.attempt a

/-- Step 2 after a failed attempt (R149). -/
def serialFailed (last : ErrName) (s : State) : State :=
  serialAttempts (Config.tries.toNat - s.att.toNat) (s.att + 1) last s

/-- Step 2 after the capture (R149): the first response with the command echo is accepted. -/
def serialGoOn (o : RxOutcome) (s : State) : State :=
  match o with
  | .data _ =>
    if s.rx 0 = s.params.cmd.getSerial then serialAccepted s else serialFailed .protocolMismatch s
  | .timeout => serialFailed .ioTimeout s
  | .linkError => serialFailed .linkError s

/-- Step 2 up to its first await (R149). -/
def cfgStep2 (s : State) : State :=
  afterTransmit (txAnswer s) (serialAttempts Config.tries.toNat 1 .ioTimeout)
    (sendGetSerial (s.enterStep 2))

/-- Step 1 up to its await (R148). -/
def cfgStep1 (s : State) : State := exchange sendIsBuild (s.enterStep 1)

/-- `STATUS.OUTV <- 0 ; SEQ_STEP <- 0`, which comes before the session check (R146). -/
def State.beginConfigure (s : State) : State :=
  { s with seqStep := 0, status := { s.status with outv := false } }

/-- The prologue of CONFIGURE and its first step (R146). -/
def configureStart (s : State) : State := needSession cfgStep1 s.beginConfigure

/-- CONFIGURE from an await on, after the capture (R146 to R158): what follows is decided by the step the
await belongs to; a step that awaits nothing is no position. -/
def configureCaptured (o : RxOutcome) (s : State) : Option State :=
  match s.seqStep.toNat with
  | 1 => some (checkExchange o .notConfigured cfgStep2 s)
  | 2 => some (serialGoOn o s)
  | 4 => some (checkExchange o .lockFailed cfgStep5 s)
  | 6 => some (checkExchange o .keyLoadFailed cfgStep7 s)
  | 8 => some (checkExchange o .keyLoadFailed cfgStep9 s)
  | 9 => some (checkExchange o .keyLoadFailed cfgStep10 s)
  | 11 => some (checkExchange o .bootloaderTransitionFailed State.finish s)
  | _ => none

/-- CONFIGURE from an await on. -/
def configureGoOn (t : Timeout) (s : State) : Host.Outcome State Fault Refusal :=
  match delivered t s with
  | none => .next s.keepWaiting
  | some o =>
    match configureCaptured o (s.receive o) with
    | some s' => .next s'
    | none => .fault .noSuchPosition

/-- CONFIGURE (R146). -/
def execConfigure (s : State) : Host.Outcome State Fault Refusal :=
  match s.phase with
  | .ready .start => .next (configureStart s)
  | .await t .afterAwait => configureGoOn t s
  | _ => .fault .noSuchPosition

end Sys2Proof.Machine
end

