-- ==== Sys2Proof/Machine/Supplementary.lean ====
section
/-! DEFINITION. The supplementary operations (45_supplementary.md): the two streams with their
cancellation and diagnostics, WIPE, WINK, BOOT and BOOT_DESTROY. -/

namespace Sys2Proof.Machine

/-- `CancelPoint()` at the top of a stream's loop: the CORE step ends (R161). -/
def State.atLoopTop (s : State) : State := { s with phase := .ready .loopTop }

/-! ## RNG_STREAM -/

/-- `RNG_COUNT <- 0 ; DIAG_COUNT <- 0` (R163). -/
def State.zeroRngCounts (s : State) : State := { s with rngCount := 0, diagCount := 0 }

/-- `RNG_COUNT <- RNG_COUNT + 32`, modulo 2^32 (R163). -/
def State.countRng (s : State) : State := { s with rngCount := s.rngCount + 32 }

/-- RNG_STREAM up to its first cancel point (R163). -/
def rngStart (s : State) : State :=
  needSession (fun s => s.zeroRngCounts.atLoopTop) s

/-- RNG_STREAM's cancel exit (R161). -/
def rngCancel (s : State) : State := s.clearCancel.finish

/-- RNG_STREAM from the top of its loop to the await (R161, R163). -/
def rngLoopTop (s : State) : State :=
  if s.cancelReq then rngCancel s
  else
    match txAnswer s with
    | .sent => (sendRng s).awaitFor .inf
    | .linkError => ((sendRng s).diag .linkError).atLoopTop

/-- An RNG response is valid: echo, length field 32 and 32 data bytes, each of them received (R163). -/
def rngValid (s : State) : Bool :=
  decide (s.params.rngEchoOff.val < s.rxLen.toNat) &&
    decide (s.rx s.params.rngEchoOff.val = s.params.cmd.rng) &&
    decide (s.params.rngLenOff.val < s.rxLen.toNat) &&
    decide (s.rx s.params.rngLenOff.val = 32) &&
    decide (s.params.rngDataOff.val + Config.rngLen ≤ s.rxLen.toNat)

/-- The 32 random bytes of an RNG response (R163). -/
def rngBytes (s : State) : List Byte := s.buf (rxBase + s.params.rngDataOff.val) Config.rngLen

/-- RNG_STREAM after the capture (R163): every error is a diagnostic, and the loop goes on. -/
def rngCaptured (o : RxOutcome) (s : State) : State :=
  if o = .linkError then (s.diag .linkError).atLoopTop
  else if rngValid s then
    (s.countRng.emit (.rngData (rngBytes s))).atLoopTop
  else (s.diag .protocolMismatch).atLoopTop

/-- RNG_STREAM from its await on (R161, R163): where the TOKEN delivers nothing at this step, a pending
cancel takes the step. -/
def rngGoOn (t : Timeout) (s : State) : State :=
  match delivered t s with
  | some o => rngCaptured o (s.receive o)
  | none => if s.cancelReq then rngCancel s.keepWaiting else s.keepWaiting

/-- RNG_STREAM (R163). -/
def execRngStream (s : State) : Host.Outcome State Fault Refusal :=
  match s.phase with
  | .ready .start => .next (rngStart s)
  | .ready .loopTop => .next (rngLoopTop s)
  | .await t .afterAwait => .next (rngGoOn t s)
  | _ => .fault .noSuchPosition

/-! ## SEED_STREAM -/

/-- `SEED_COUNT <- 0 ; DIAG_COUNT <- 0` (R164). -/
def State.zeroSeedCounts (s : State) : State := { s with seedCount := 0, diagCount := 0 }

/-- `SEED_COUNT <- SEED_COUNT + n`, modulo 2^32, `n` being the chunk's length (R164). -/
def State.countSeed (s : State) : State := { s with seedCount := s.seedCount + s.chunkN.setWidth 32 }

/-- `STATUS.WAITIN <- 1` and the wait for input (R164). -/
def State.waitForInput (s : State) : State := { s.setWaitin with phase := .input .afterInput }

/-- SEED_STREAM up to its first cancel point (R164). -/
def seedStart (s : State) : State :=
  needSession (fun s => s.zeroSeedCounts.atLoopTop) s

/-- SEED_STREAM's clean exit, at the end of input and at a cancel: the summary, then the end (R161, R164). -/
def seedEnd (s : State) : State := (s.emit (.seedSummary s.seedCount)).finish

/-- SEED_STREAM's cancel exit (R161). -/
def seedCancel (s : State) : State := seedEnd s.clearCancel

/-- SEED_STREAM from the top of its loop to the input wait (R161, R164). -/
def seedLoopTop (s : State) : State :=
  if s.cancelReq then seedCancel s
  else s.waitForInput

/-- SEED_STREAM with a committed chunk (R164): none is the end of input, else it is sent. -/
def seedTake (s : State) : State :=
  if s.chunkN = 0 then seedEnd s
  else
    match txAnswer s with
    | .sent => (sendSeed (s.chunk.take s.chunkN.toNat) s).awaitFor .inf
    | .linkError => ((sendSeed (s.chunk.take s.chunkN.toNat) s).diag .linkError).atLoopTop

/-- SEED_STREAM in its input wait (R161, R164, R165). The CORE has a step when a chunk is committed
(WAITIN = 0) or a cancel is pending; where both stand, either comes first (60_exceptions.md R176). With
neither it has none, and nothing changes. -/
def seedInput (s : State) : State :=
  match s.status.waitin, s.cancelReq with
  | false, false => seedTake s
  | false, true => if orderAnswer s then seedCancel s.dropOrder else seedTake s.dropOrder
  | true, true => seedCancel s
  | true, false => s

/-- A seed response carries the success byte (R164). -/
def seedAccepted (s : State) : Bool :=
  decide (s.params.seedOkOff.val < s.rxLen.toNat) && decide (s.rx s.params.seedOkOff.val = 0x01)

/-- SEED_STREAM after the capture (R164): only an accepted chunk is counted. -/
def seedCaptured (o : RxOutcome) (s : State) : State :=
  if o = .linkError then (s.diag .linkError).atLoopTop
  else if seedAccepted s then s.countSeed.atLoopTop
  else (s.diag .protocolMismatch).atLoopTop

/-- SEED_STREAM from its await on (R161, R164). -/
def seedGoOn (t : Timeout) (s : State) : State :=
  match delivered t s with
  | some o => seedCaptured o (s.receive o)
  | none => if s.cancelReq then seedCancel s.keepWaiting else s.keepWaiting

/-- SEED_STREAM (R164). -/
def execSeedStream (s : State) : Host.Outcome State Fault Refusal :=
  match s.phase with
  | .ready .start => .next (seedStart s)
  | .ready .loopTop => .next (seedLoopTop s)
  | .input .afterInput => .next (seedInput s)
  | .await t .afterAwait => .next (seedGoOn t s)
  | _ => .fault .noSuchPosition

/-! ## WIPE, WINK, BOOT and BOOT_DESTROY -/

/-- Add one, saturating at 255 (10_state.md R23, R166). -/
def satInc (b : Byte) : Byte := if b = 255 then 255 else b + 1

/-- ATT and TRIES count one more await (R166). -/
def State.countWipe (s : State) : State := { s with att := satInc s.att, tries := satInc s.tries }

/-- One turn of WIPE's loop up to its await (R166). -/
def wipeLoop (s : State) : State := s.countWipe.awaitFor .wipe

/-- `RESULT <- r` (R166). -/
def State.setResult (r : Byte) (s : State) : State := { s with result := r }

/-- WIPE up to its first await (R166). -/
def wipeStart (s : State) : State :=
  needSession
    (fun s => afterTransmit (txAnswer s) (fun s => wipeLoop (s.setTries 0)) (sendWipe s)) s

/-- The result of a wipe: 0x01 where the success byte was received, else 0x00 (R166). -/
def wipeResult (s : State) : Byte :=
  if s.params.wipeOkOff.val < s.rxLen.toNat ∧ s.rx s.params.wipeOkOff.val = 0x01 then 0x01 else 0x00

/-- WIPE after the capture (R166): a timeout waits on, a link error faults, a response ends it. -/
def wipeCaptured (o : RxOutcome) (s : State) : State :=
  match o with
  | .timeout => wipeLoop s
  | .linkError => s.raise .linkError
  | .data _ => (s.setResult (wipeResult s)).finish

/-- WIPE from an await on (R166): no cancel ends it. -/
def wipeGoOn (t : Timeout) (s : State) : State :=
  match delivered t s with
  | none => s.keepWaiting
  | some o => wipeCaptured o (s.receive o)

/-- WIPE (R166). -/
def execWipe (s : State) : Host.Outcome State Fault Refusal :=
  match s.phase with
  | .ready .start => .next (wipeStart s)
  | .await t .afterAwait => .next (wipeGoOn t s)
  | _ => .fault .noSuchPosition

/-- WINK (R167): one long frame, and no response is read. -/
def execWink (s : State) : Host.Outcome State Fault Refusal :=
  .next (needSession (fun s => afterTransmit (txAnswer s) State.finish (sendWink s)) s)

/-- Two frames one after the other, a link error of the first stopping the operation before the second
(R168, R169). -/
def sendBoth (first second : State → State) (s : State) : State :=
  afterTransmit (txAnswer s) (fun s1 => afterTransmit (txAnswer s1) State.finish (second s1)) (first s)

/-- BOOT (R168). -/
def execBoot (s : State) : Host.Outcome State Fault Refusal :=
  .next (needSession (sendBoth sendBootloaderShort sendBootloaderLong) s)

/-- BOOT_DESTROY (R169). -/
def execBootDestroy (s : State) : Host.Outcome State Fault Refusal :=
  .next (needSession (sendBoth sendBootloaderDestroyShort sendBootloaderDestroyLong) s)

end Sys2Proof.Machine
end

