-- ==== Sys2Proof/Machine/Transport.lean ====
section
/-! DEFINITION. The transport operations (43_transport.md R139 to R143). An operation that waits runs from
READY(start) to its await in one CORE step and from each await on in another (40_control.md R107). -/

namespace Sys2Proof.Machine

/-- The serial filter of OPEN: FILTER's first FILTER_LEN bytes, or none for length 0 (R139). -/
def openFilter (s : State) : Option (List Byte) :=
  if s.filterLen = 0 then none else some (s.buf filterBase s.filterLen.toNat)

/-- The token an OPEN attaches to, or none where no token matches or the ENVIRONMENT refuses (R139). -/
def openedToken (s : State) : Option Token :=
  match (openAnswer s).pick with
  | none => none
  | some k => pickToken (matching s.params (openFilter s) (openAnswer s).attached) k

/-- Open the session with a token (R139). -/
def State.openSession (d : Token) (s : State) : State :=
  { s with session := some d, status := { s.status with opened := true } }

/-- The lines of OPEN from the ENVIRONMENT's answer on (R139). -/
def openTaken (s : State) : State :=
  match openedToken s with
  | none => s.dropOpen.raise .deviceNotFound
  | some d => (s.dropOpen.openSession d).finish

/-- OPEN (R139). -/
def execOpen (s : State) : Host.Outcome State Fault Refusal :=
  .next
    (if s.status.opened then s.raise .sessionBusy
     else if 64 < s.filterLen.toNat then s.raise .badArgument
     else openTaken s)

/-- Close the session, if one is open (R140). -/
def State.closeSession (s : State) : State :=
  { s with session := none, status := { s.status with opened := false } }

/-- CLOSE (R140): no fault, no frame. -/
def execClose (s : State) : Host.Outcome State Fault Refusal := .next s.closeSession.finish

/-- The frame SEND transmits: form 0 short, form 1 long, with PAYLOAD's first `len` bytes (R141). -/
def sendFrame (form cmd len : Byte) (s : State) : State :=
  if form = 0 then s.transmitShort cmd (s.buf payloadBase len.toNat)
  else s.transmitLong cmd (s.buf payloadBase len.toNat)

/-- SEND with a session open (R141): the form is checked before the length. -/
def sendOpen (form cmd len : Byte) (s : State) : State :=
  if 1 < form.toNat then s.raise .badArgument
  else if form = 0 ∧ shortMax < len.toNat then s.raise .badArgument
  else if form = 1 ∧ longMax s.params.longBcnt < len.toNat then s.raise .badArgument
  else afterTransmit (txAnswer s) State.finish (sendFrame form cmd len s)

/-- SEND (R141). -/
def execSend (form cmd len : Byte) (s : State) : Host.Outcome State Fault Refusal :=
  .next (needSession (sendOpen form cmd len) s)

/-- RECV up to its await (R142). -/
def recvStart (sel : Byte) (s : State) : State :=
  needSession
    (fun s =>
      match recvTimeout sel with
      | none => s.raise .badArgument
      | some t => (s.setTries 1).awaitFor t) s

/-- RECV from its await on (R142): the outcome is captured and reported, never a fault. -/
def recvGoOn (t : Timeout) (s : State) : State :=
  match delivered t s with
  | none => s.keepWaiting
  | some o => (s.receive o).finish

/-- RECV (R142). -/
def execRecv (sel : Byte) (s : State) : Host.Outcome State Fault Refusal :=
  match s.phase with
  | .ready .start => .next (recvStart sel s)
  | .await t .afterAwait => .next (recvGoOn t s)
  | _ => .fault .noSuchPosition

/-- RECV_RETRY up to its first await (R143). -/
def recvRetryStart (s : State) : State := needSession (State.attempt 1) s

/-- RECV_RETRY after a failed attempt: the next attempt while there is one, else the end with the last
attempt's result (R143). The state is that after the capture. -/
def recvRetryFailed (n : Byte) (s : State) : State :=
  if s.att.toNat < (retryCount n).toNat then s.attempt (s.att + 1) else s.finish

/-- RECV_RETRY from an await on (R143): any response ends it. -/
def recvRetryGoOn (n : Byte) (t : Timeout) (s : State) : State :=
  match delivered t s with
  | none => s.keepWaiting
  | some (.data b) => (s.receive (.data b)).finish
  | some o => recvRetryFailed n (s.receive o)

/-- RECV_RETRY (R143). -/
def execRecvRetry (n : Byte) (s : State) : Host.Outcome State Fault Refusal :=
  match s.phase with
  | .ready .start => .next (recvRetryStart s)
  | .await t .afterAwait => .next (recvRetryGoOn n t s)
  | _ => .fault .noSuchPosition

end Sys2Proof.Machine
end

