-- ==== Sys2Proof/Machine/Dispatch.lean ====
section
/-! DEFINITION. exec: one arm per constructor of Instr, each one direct call of that instruction's meaning.
For an operation (the first 20) exec is one CORE step of it (40_control.md R107), from the position PH
holds; for a wire frame (the last 16) it is the frame's Transmit (43_transport.md R135). -/

namespace Sys2Proof.Machine

def exec (i : Instr) (s : State) : Host.Outcome State Fault Refusal :=
  match i with
  | .nop => Sys2Proof.Machine.execNop s
  | .crcInit => Sys2Proof.Machine.execCrcInit s
  | .crcByte b => Sys2Proof.Machine.execCrcByte b s
  | .crcFinal => Sys2Proof.Machine.execCrcFinal s
  | .crcBlob => Sys2Proof.Machine.execCrcBlob s
  | .kdf readKey => Sys2Proof.Machine.execKdf readKey s
  | .patch => Sys2Proof.Machine.execPatch s
  | .openDev => Sys2Proof.Machine.execOpen s
  | .closeDev => Sys2Proof.Machine.execClose s
  | .send form cmd len => Sys2Proof.Machine.execSend form cmd len s
  | .recv sel => Sys2Proof.Machine.execRecv sel s
  | .recvRetry n => Sys2Proof.Machine.execRecvRetry n s
  | .configure => Sys2Proof.Machine.execConfigure s
  | .rngStream => Sys2Proof.Machine.execRngStream s
  | .seedStream => Sys2Proof.Machine.execSeedStream s
  | .wipe => Sys2Proof.Machine.execWipe s
  | .wink => Sys2Proof.Machine.execWink s
  | .boot => Sys2Proof.Machine.execBoot s
  | .bootDestroy => Sys2Proof.Machine.execBootDestroy s
  | .reserved op => Sys2Proof.Machine.execReserved op s
  | .wireIsBuild => Sys2Proof.Machine.execWireIsBuild s
  | .wireGetSerial => Sys2Proof.Machine.execWireGetSerial s
  | .wireIsConfigured => Sys2Proof.Machine.execWireIsConfigured s
  | .wireLock hi lo => Sys2Proof.Machine.execWireLock hi lo s
  | .wireGenKey => Sys2Proof.Machine.execWireGenKey s
  | .wireLoadTransKey key => Sys2Proof.Machine.execWireLoadTransKey key s
  | .wireLoadWriteKey mask => Sys2Proof.Machine.execWireLoadWriteKey mask s
  | .wireLoadAttestKey key => Sys2Proof.Machine.execWireLoadAttestKey key s
  | .wireBootloaderShort => Sys2Proof.Machine.execWireBootloaderShort s
  | .wireBootloaderLong => Sys2Proof.Machine.execWireBootloaderLong s
  | .wireBootloaderDestroyShort => Sys2Proof.Machine.execWireBootloaderDestroyShort s
  | .wireBootloaderDestroyLong => Sys2Proof.Machine.execWireBootloaderDestroyLong s
  | .wireRng => Sys2Proof.Machine.execWireRng s
  | .wireSeed chunk => Sys2Proof.Machine.execWireSeed chunk s
  | .wireWipe => Sys2Proof.Machine.execWireWipe s
  | .wireWink => Sys2Proof.Machine.execWireWink s

end Sys2Proof.Machine
end

