-- ==== Sys2Proof/Machine/Window.lean ====
section
/-! DEFINITION. The register window as the HOST reaches it (10_state.md R15 to R51, 20_memory.md R60 to
R69): what a byte reads as, what a write of a byte does, and the platform's reset. -/

namespace Sys2Proof.Machine

/-- The access class of an offset (20_memory.md R65). -/
inductive Access where
  | rw
  | ro
  | wo
  | reserved
  deriving DecidableEq, Repr

/-- The access class of every offset of the window, by the map of 10_state.md R15. -/
def accessOf (a : Nat) : Access :=
  if a ≤ 0x003 then .rw                    -- OPC, ARG_A, ARG_B, ARG_C
  else if a ≤ 0x007 then .ro               -- STATUS, ERR_CODE, ERR_STEP, SEQ_STEP
  else if a = 0x008 then .wo               -- CTRL
  else if a ≤ 0x00B then .ro               -- TRIES, RXLEN, TXLEN
  else if a ≤ 0x011 then .rw               -- SERIAL_LEN to FILTER_LEN
  else if a = 0x012 then .ro               -- RESULT
  else if a = 0x013 then .wo               -- SEED_IN
  else if a ≤ 0x024 then .ro               -- CRC_ACC to LAST_DIAG
  else if a ≤ 0x03F then .reserved
  else if a ≤ 0x0BF then .ro               -- TXBUF, RXBUF
  else if a ≤ 0x25F then .rw               -- PAYLOAD, CFG, SERIAL, WKEY, RKEY, ATTKEY
  else if a ≤ 0x283 then .ro               -- WMASK
  else if a ≤ 0x29F then .reserved
  else if a ≤ 0x2C3 then .ro               -- RMASK
  else if a ≤ 0x2DF then .reserved
  else if a ≤ 0x31F then .ro               -- DIGEST1, DIGEST2
  else if a ≤ 0x333 then .rw               -- SEED_CHUNK
  else if a ≤ 0x33F then .reserved
  else if a ≤ 0x37F then .rw               -- FILTER
  else .ro                                 -- TEMPLATE

/-- Byte `k` of a 16-bit register, most significant first (20_memory.md R61). -/
def byte16 (x : Word16) (k : Nat) : Byte := x.extractLsb' (8 * (1 - k)) 8

/-- Byte `k` of a 32-bit register, most significant first (20_memory.md R61). -/
def byte32 (x : Word32) (k : Nat) : Byte := x.extractLsb' (8 * (3 - k)) 8

/-- The registers below 0x040, by the map of 10_state.md R15; the write-only and reserved offsets read
0x00. -/
def readRegister (s : State) (a : Nat) : Byte :=
  match a with
  | 0x000 => s.opc
  | 0x001 => s.argA
  | 0x002 => s.argB
  | 0x003 => s.argC
  | 0x004 => s.status.toByte
  | 0x005 => s.errCode
  | 0x006 => s.errStep
  | 0x007 => s.seqStep
  | 0x009 => s.tries
  | 0x00A => s.rxLen
  | 0x00B => s.txLen
  | 0x00C => s.serialLen
  | 0x00D => s.keyFlags
  | 0x00E => s.wkeyLen
  | 0x00F => s.rkeyLen
  | 0x010 => s.attkeyLen
  | 0x011 => s.filterLen
  | 0x012 => s.result
  | 0x014 => byte16 s.crcAcc 0
  | 0x015 => byte16 s.crcAcc 1
  | 0x016 => byte16 s.crcOut 0
  | 0x017 => byte16 s.crcOut 1
  | 0x018 => byte32 s.seedCount 0
  | 0x019 => byte32 s.seedCount 1
  | 0x01A => byte32 s.seedCount 2
  | 0x01B => byte32 s.seedCount 3
  | 0x01C => byte32 s.rngCount 0
  | 0x01D => byte32 s.rngCount 1
  | 0x01E => byte32 s.rngCount 2
  | 0x01F => byte32 s.rngCount 3
  | 0x020 => byte32 s.diagCount 0
  | 0x021 => byte32 s.diagCount 1
  | 0x022 => byte32 s.diagCount 2
  | 0x023 => byte32 s.diagCount 3
  | 0x024 => s.lastDiag
  | _ => 0x00

/-- What `MemRead(off, 1)` returns (20_memory.md R62, R65): a register, a byte of a buffer, a byte of the
TEMPLATE ROM, or 0x00 for the write-only and reserved offsets. -/
def State.readByte (s : State) (off : Offset) : Byte :=
  if off.toNat < 0x040 then readRegister s off.toNat
  else if 0x380 ≤ off.toNat then s.params.template.toList.getD (off.toNat - 0x380) 0
  else if accessOf off.toNat = .reserved then 0x00
  else Memory.read s.mem off.toNat

/-- KEYFLAGS as a write leaves it: bits 7:2 are reserved, read 0, and writes to them are ignored
(10_state.md R27). -/
def keyFlagsWritten (v : Byte) : Byte := v &&& 0x03

/-- Store a byte into a RW register or buffer other than OPC (20_memory.md R65). -/
def State.storeByte (a : Nat) (v : Byte) (s : State) : State :=
  match a with
  | 0x001 => { s with argA := v }
  | 0x002 => { s with argB := v }
  | 0x003 => { s with argC := v }
  | 0x00C => { s with serialLen := v }
  | 0x00D => { s with keyFlags := keyFlagsWritten v }
  | 0x00E => { s with wkeyLen := v }
  | 0x00F => { s with rkeyLen := v }
  | 0x010 => { s with attkeyLen := v }
  | 0x011 => { s with filterLen := v }
  | _ => { s with mem := Memory.write s.mem a v }

/-- A write of OPC: the issue, or a dropped write while an operation runs (40_control.md R106). -/
def writeOpc (v : Byte) (s : State) : State := if s.status.busy then s.setOvr else s.issue v

/-- A write of CTRL: bit 0 requests a cancel, at any time (40_control.md R111). -/
def writeCtrl (v : Byte) (s : State) : State :=
  if v.getLsbD 0 then { s with cancelReq := true } else s

/-- SEED_IN accepts a commit of `n` bytes (45_supplementary.md R165). -/
def seedInAccepts (n : Byte) (s : State) : Bool :=
  s.status.busy && decide (s.opl = opcSeedStream) && s.status.waitin &&
    decide (n.toNat ≤ Config.seedMax)

/-- The chunk committed: the copy is taken at the commit, and WAITIN is cleared (R165). -/
def State.commitChunk (n : Byte) (s : State) : State :=
  { s with
    chunk := s.buf chunkBase n.toNat
    chunkN := n
    status := { s.status with waitin := false } }

/-- A write of SEED_IN: the commit, or a dropped write (45_supplementary.md R165). -/
def writeSeedIn (n : Byte) (s : State) : State :=
  if seedInAccepts n s then s.commitChunk n else s.setOvr

/-- An offset whose RW byte takes a write at any time: SEED_CHUNK (20_memory.md R64). -/
def anyTime (a : Nat) : Bool := decide (chunkBase ≤ a) && decide (a < chunkBase + Config.seedMax)

/-- `MemWrite(off, 1, v)` (20_memory.md R62, R64, R65). -/
def State.writeByte (off : Offset) (v : Byte) (s : State) : State :=
  match accessOf off.toNat with
  | .rw =>
    if off.toNat = 0x000 then writeOpc v s
    else if s.status.busy && !anyTime off.toNat then s.setOvr
    else s.storeByte off.toNat v
  | .wo => if off.toNat = 0x008 then writeCtrl v s else writeSeedIn v s
  | .ro => s
  | .reserved => s

/-- The reset the platform asserts (70_reset_and_hazards.md R185 to R187): every register, buffer and
internal element at its value of R186. The parameters, TEMPLATE among them, are not changed, and what the
other agents do next and have read is theirs. -/
def State.platformReset (s : State) : State :=
  { State.reset with
    params := s.params, env := s.env, freeCount := s.freeCount, sched := s.sched, rdata := s.rdata }

end Sys2Proof.Machine
end

