-- ==== Sys2Proof/Machine/Agents.lean ====
section
/-! DEFINITION. The steps of the four agents (00_scope.md R5, 20_memory.md R70): the CORE's step
(40_control.md R107), the HOST's accesses and polls, and the platform's reset. The schedule in State says
which comes next; where it is empty the CORE moves. -/

namespace Sys2Proof.Machine

/-- The operation the latch holds (10_state.md R52, 30_encoding.md R77 to R81). -/
def latched (s : State) : Instr := decodeWord s.opl s.al s.bl s.cl

/-- A CORE step (40_control.md R107): none in phase IDLE, where nothing changes, else one step of the
latched operation. -/
def coreStep (s : State) : Host.Outcome State Fault Refusal :=
  match s.phase with
  | .idle => .next s
  | .ready _ => exec (latched s) s
  | .await _ _ => exec (latched s) s
  | .input _ => exec (latched s) s

/-- A HOST read of one byte: it changes nothing of the CORE (20_memory.md R66); the byte returned is
`rdata`. -/
def hostReadByte (off : Offset) (s : State) : State := { s with rdata := s.readByte off }

/-- A HOST read of `n` bytes: only one byte is an access of this hardware (20_memory.md R62). -/
def hostRead (off : Offset) (n : Nat) (s : State) : Host.Outcome State Fault Refusal :=
  if n = 1 then .next (hostReadByte off s) else .refused (.accessWidth n)

/-- A HOST write: only one byte is an access of this hardware (20_memory.md R62). -/
def hostWrite (off : Offset) (v : List Byte) (s : State) : Host.Outcome State Fault Refusal :=
  match v with
  | [b] => .next (s.writeByte off b)
  | _ => .refused (.accessWidth v.length)

/-- The offset of STATUS. -/
def statusOffset : Offset := 0x004

/-- The HOST polls STATUS once (30_encoding.md R84); where it is not yet satisfied the CORE has its turn
and the HOST polls again (assumption 5). -/
def pollStatus (again : Byte → Bool) (m : Move) (s : State) : State :=
  let r := hostReadByte statusOffset s
  if again r.rdata then { r with sched := .core :: m :: r.sched } else r

/-- `WAIT` goes on while BUSY is 1 (R84). -/
def waitAgain (st : Byte) : Bool := st.getLsbD 0

/-- `WAITIN` goes on while WAITIN is 0 and BUSY is 1 (R84). -/
def waitinAgain (st : Byte) : Bool := !st.getLsbD 7 && st.getLsbD 0

/-- One agent's step, its move already taken off the schedule. -/
def moveStep (m : Move) (s : State) : Host.Outcome State Fault Refusal :=
  match m with
  | .core => coreStep s
  | .hostRead off n => hostRead off n s
  | .hostWrite off v => hostWrite off v s
  | .wait => .next (pollStatus waitAgain .wait s)
  | .waitin => .next (pollStatus waitinAgain .waitin s)
  | .reset => .next s.platformReset

/-- The next step of the whole system: the first move of the schedule, or the CORE's. -/
def systemStep (s : State) : Host.Outcome State Fault Refusal :=
  match s.sched with
  | [] => coreStep s
  | m :: rest => moveStep m { s with sched := rest }

/-- The state once the HOST has written the arguments and issued a command word (30_encoding.md R83,
40_control.md R106), with the CORE to move next. -/
def placeCommand (op a b c : Byte) (s : State) : State :=
  { State.issue op { s with argA := a, argB := b, argC := c } with sched := .core :: s.sched }

/-- Place the command word a number stands for (30_encoding.md R77). -/
def placeCommandWord (w : Nat) (s : State) : State :=
  placeCommand (BitVec.ofNat 8 (w >>> 24)) (BitVec.ofNat 8 (w >>> 16)) (BitVec.ofNat 8 (w >>> 8))
    (BitVec.ofNat 8 w) s

/-- The state once a HOST has opened a session and loaded a payload, and issued SEND with a form and a
command byte (43_transport.md R141), with the CORE to move next. -/
def placeSend (form c : Byte) (p : List Byte) (s : State) : State :=
  placeCommand 0x42 form c (BitVec.ofNat 8 p.length)
    { s.setBuf payloadBase p with
      session := some { vid := s.params.vid, pid := s.params.pid, serial := [] }
      status := { s.status with opened := true } }

/-- Place the SEND that transmits the frame of these meaningful bytes: no HOST issues a frame itself, and
SEND is the operation that can transmit any of them (30_encoding.md R93, assumption 4). -/
def placeFrame (bs : List Byte) (s : State) : State :=
  match bs with
  | 0x00#8 :: 0xFF#8 :: 0xFF#8 :: 0xFF#8 :: 0xFF#8 :: c :: rest =>
    placeSend 1 c (if s.params.longBcnt then rest.drop 2 else rest) s
  | 0x00#8 :: c :: p => placeSend 0 c p s
  | _ => s

/-- Place the instruction whose bits are `w`, as decodeTableWord reads it: a command word of 32 bits, or a
wire frame. -/
def placeWord (nbits w : Nat) (s : State) : State :=
  if nbits = 32 then placeCommandWord w s else placeFrame (bytesOfNat (nbits / 8) w) s

end Sys2Proof.Machine
end

