-- ==== Sys2Proof/Machine/Step.lean ====
section
/-! DEFINITION. The step of the machine, and the placing of a command word where the next step takes it
from. -/

namespace Sys2Proof.Machine

/-- One step of the system (20_memory.md R70). -/
def step (s : State) : Host.Outcome State Fault Refusal := systemStep s

/-- An instruction placed where the CORE takes its next operation from, the CORE to move next: a command
word with the arguments written and the word issued (40_control.md R106), or, for a wire frame, the SEND
that transmits it (assumption 4). -/
def State.withFetchWord (s : State) (nbits w : Nat) : State := placeWord nbits w s

end Sys2Proof.Machine
end

