-- ==== Sys2Proof/Machine/Program.lean ====
section
/-! DEFINITION. HOST programs (30_encoding.md R83, R84): the lines of the assembler syntax and the HOST
accesses each of them stands for. A program is placed into the schedule of a state. -/

namespace Sys2Proof.Machine

/-- A line of a HOST program. An operation is named by its OPC value (R80). -/
inductive HostLine where
  | wr (off : Offset) (v : Byte)
  | rd (off : Offset)
  | op (opc : Byte) (a b c : Option Byte)
  | wait
  | load (base : Offset) (bs : List Byte)
  | cancel
  | waitin
  | chunk (bs : List Byte)
  | eof
  | run (opc : Byte) (a b c : Option Byte)
  deriving DecidableEq, Repr

/-- A write of one byte. -/
def writeMove (off : Offset) (v : Byte) : Move := .hostWrite off [v]

/-- The write of an argument that a line gives; an argument not given is not written (R83). -/
def argMoves (off : Offset) : Option Byte → List Move
  | none => []
  | some v => [writeMove off v]

/-- The accesses of an operation line: the arguments given, then OPC (R83). -/
def opMoves (opc : Byte) (a b c : Option Byte) : List Move :=
  argMoves 0x001 a ++ argMoves 0x002 b ++ argMoves 0x003 c ++ [writeMove 0x000 opc]

/-- `LOAD base, b0 b1 ... bk` (R84), for a line of the domain (`HostLine.inDomain`): there `base + k` is an
offset of the window, so the addition does not wrap. -/
def loadMoves : Offset → List Byte → List Move
  | _, [] => []
  | base, b :: bs => writeMove base b :: loadMoves (base + 1) bs

/-- The lines R83 and R84 give an expansion: LOAD has at least one byte and stays inside the window, since no
access falls outside it (20_memory.md R62, U26), and CHUNK has 1 to 20 bytes. That any other line is refused
is the model's choice (DESIGN CHOICE, assumption 20). -/
def HostLine.inDomain : HostLine → Bool
  | .wr _ _ => true
  | .rd _ => true
  | .op _ _ _ _ => true
  | .wait => true
  | .load base bs => decide (1 ≤ bs.length) && decide (base.toNat + bs.length ≤ 0x400)
  | .cancel => true
  | .waitin => true
  | .chunk bs => decide (1 ≤ bs.length) && decide (bs.length ≤ Config.seedMax)
  | .eof => true
  | .run _ _ _ _ => true

/-- The moves a line of the domain stands for (R83, R84). -/
def HostLine.expansion : HostLine → List Move
  | .wr off v => [writeMove off v]
  | .rd off => [.hostRead off 1]
  | .op opc a b c => opMoves opc a b c
  | .wait => [.wait]
  | .load base bs => loadMoves base bs
  | .cancel => [writeMove 0x008 0x01]
  | .waitin => [.waitin]
  | .chunk bs => loadMoves 0x320 bs ++ [writeMove 0x013 (BitVec.ofNat 8 bs.length)]
  | .eof => [writeMove 0x013 0x00]
  | .run opc a b c => opMoves opc a b c ++ [.wait]

/-- The moves a line stands for, or none where it is outside the domain (assumption 20). -/
def HostLine.moves (l : HostLine) : Option (List Move) :=
  if l.inDomain then some l.expansion else none

/-- The moves of a program, line after line; a program with a line outside the domain is refused
(assumption 20). -/
def assemble : List HostLine → Option (List Move)
  | [] => some []
  | l :: ls =>
    match l.moves, assemble ls with
    | some ms, some more => some (ms ++ more)
    | _, _ => none

end Sys2Proof.Machine
end

