-- ==== Sys2Proof/Safety.lean ====
section
/-! DEFINITION. What counts as a safe state and a safe run, and the words the statements are written in:
what the HOST sees of the window, what a step leaves unchanged, and the invariants of the machine. -/

namespace Sys2Proof

/-! ## Identifiers that tell frames apart -/

/-- The identifiers of the commands with a short form (30_encoding.md R90). -/
def CmdIds.shortIds (c : CmdIds) : List Byte :=
  [c.isBuild, c.getSerial, c.isConfigured, c.lock, c.genKey, c.loadTransKey, c.loadWriteKey,
    c.loadAttestKey, c.bootloader, c.bootloaderDestroy]

/-- The identifiers of the commands with a long form (30_encoding.md R90). -/
def CmdIds.longIds (c : CmdIds) : List Byte :=
  [c.bootloader, c.bootloaderDestroy, c.rng, c.seed, c.wipe, c.wink]

/-- The values tell the frames of R91 to R104 apart. R7 does not ask for it; nothing of the machine rests
on it, only the reading of a frame back (assumption 13). -/
abbrev CmdIds.Unambiguous (c : CmdIds) : Prop :=
  c.shortIds.Nodup ∧ c.longIds.Nodup ∧ (0xFF : Byte) ∉ c.shortIds

end Sys2Proof

namespace Sys2Proof.Machine

/-! ## What a step leaves unchanged -/

/-- An offset lies in one of the ranges (first offset, number of bytes). -/
def inRanges (rs : List (Nat × Nat)) (a : Nat) : Bool :=
  rs.any fun r => decide (r.1 ≤ a) && decide (a < r.1 + r.2)

/-- Every byte of the window outside the ranges reads as before. -/
def SameWindowBut (rs : List (Nat × Nat)) (s t : State) : Prop :=
  ∀ off : Offset, inRanges rs off.toNat = false → t.readByte off = s.readByte off

/-- The bytes the HOST reads from an offset upwards. -/
def windowBytes (s : State) (base n : Nat) : List Byte :=
  (List.range n).map fun i => s.readByte (BitVec.ofNat 10 (base + i))

/-- The latch, the committed chunk, the parameters, the schedule and the HOST's last byte are unchanged. -/
structure KeepsLatch (s t : State) : Prop where
  opl : t.opl = s.opl
  al : t.al = s.al
  bl : t.bl = s.bl
  cl : t.cl = s.cl
  chunk : t.chunk = s.chunk
  chunkN : t.chunkN = s.chunkN
  params : t.params = s.params
  sched : t.sched = s.sched
  rdata : t.rdata = s.rdata

/-- Neither log grows, and no answer of the TOKEN or the ENVIRONMENT is taken. -/
structure KeepsLogs (s t : State) : Prop where
  outLog : t.outLog = s.outLog
  linkLog : t.linkLog = s.linkLog
  env : t.env = s.env
  freeCount : t.freeCount = s.freeCount

/-- Nothing outside the window changes but PH and ATT. -/
structure KeepsInternals (s t : State) : Prop where
  latch : KeepsLatch s t
  logs : KeepsLogs s t
  session : t.session = s.session
  cancelReq : t.cancelReq = s.cancelReq

/-- The internal state an operation's window writes leave alone: all but the logs and the answers taken. -/
structure KeepsControl (s t : State) : Prop where
  latch : KeepsLatch s t
  session : t.session = s.session
  cancelReq : t.cancelReq = s.cancelReq
  phase : t.phase = s.phase
  att : t.att = s.att

/-! ## The parts an operation is made of -/

/-- `bs ++ zeros(64 - |bs|)`: what 64 bytes hold after `pad64` (00_scope.md R9). -/
def zeroPadded (bs : List Byte) : List Byte := bs ++ List.replicate (64 - bs.length) 0

/-- The meaningful bytes of the short form (30_encoding.md R86). -/
def shortFrame (c : Byte) (p : List Byte) : List Byte := [0x00, c] ++ p

/-- The meaningful bytes of the long form, with the two length bytes where `P_LONG_BCNT` is true (30_encoding.md
R87). -/
def longFrame (s : State) (c : Byte) (p : List Byte) : List Byte :=
  [0x00, 0xFF, 0xFF, 0xFF, 0xFF, c] ++
    (if s.params.longBcnt then [0x00, BitVec.ofNat 8 p.length] else []) ++ p

/-- The operation has ended without a fault (40_control.md R108), `st` being STATUS just before the end. -/
structure EndedFrom (st : Status) (t : State) : Prop where
  status : t.status = { st with busy := false, done := true, waitin := false }
  phase : t.phase = .idle
  att : t.att = 0

/-- `t` is `s` after `End()` and nothing else (40_control.md R108). -/
structure Ended (s t : State) : Prop where
  flags : EndedFrom s.status t
  window : SameWindowBut [(0x004, 1)] s t
  internals : KeepsInternals s t

/-- `t` is `s` after `raise Fault(e)` and nothing else (60_exceptions.md R171). -/
structure Faulted (e : ErrName) (s t : State) : Prop where
  code : t.errCode = e.code
  errStep : t.errStep = if s.opl = 0x50 then s.seqStep else 0
  status : t.status = { s.status with err := true, done := true, busy := false, waitin := false }
  phase : t.phase = .idle
  att : t.att = 0
  window : SameWindowBut [(0x004, 3)] s t
  internals : KeepsInternals s t

/-- `t` is `s` after one `Transmit` of the frame whose meaningful bytes are given, with outcome `o`, and
nothing else (43_transport.md R135). -/
structure Transmitted (bs : List Byte) (o : TxOutcome) (s t : State) : Prop where
  frame : windowBytes t 0x040 64 = zeroPadded bs
  length : t.txLen = BitVec.ofNat 8 bs.length
  linkLog : t.linkLog = s.linkLog ++ [.tx (zeroPadded bs) o]
  outLog : t.outLog = s.outLog
  answers : t.env = { s.env with tx := s.env.tx.tail }
  taken : t.freeCount = s.freeCount + freeStep s.env.tx
  window : SameWindowBut [(0x00B, 1), (0x040, 64)] s t
  control : KeepsControl s t

/-- `t` is `s` after an `Await` answered `o` and the `Capture` of it, and nothing else (43_transport.md R136,
R137). -/
structure Captured (o : RxOutcome) (s t : State) : Prop where
  response : windowBytes t 0x080 64 = zeroPadded (responseBytes o)
  length : t.rxLen = BitVec.ofNat 8 (responseBytes o).length
  result : t.result = resultOf o
  status : t.status = { s.status with tmo := tmoOf o }
  linkLog : t.linkLog = s.linkLog ++ [.rx o]
  outLog : t.outLog = s.outLog
  answers : t.env = { s.env with rx := s.env.rx.tail }
  taken : t.freeCount = s.freeCount + freeStep s.env.rx
  window : SameWindowBut [(0x004, 1), (0x00A, 1), (0x012, 1), (0x080, 64)] s t
  control : KeepsControl s t

/-- `t` is `s` after `Diag(e)` and nothing else (45_supplementary.md R162). -/
structure Diagnosed (e : ErrName) (s t : State) : Prop where
  count : t.diagCount = s.diagCount + 1
  last : t.lastDiag = e.code
  outLog : t.outLog = s.outLog ++ [.diag e.code]
  linkLog : t.linkLog = s.linkLog
  answers : t.env = s.env
  taken : t.freeCount = s.freeCount
  window : SameWindowBut [(0x020, 5)] s t
  control : KeepsControl s t

/-- The TOKEN delivers nothing that the wait admits: it is silent, or answers what no outcome of the wait is
(43_transport.md R136). -/
def NoDelivery (t : Timeout) (s : State) : Prop :=
  ∀ o, tokenAnswer s = .deliver o → enabledAt t o = false

/-- The wait the CORE is in receives `o`: the TOKEN delivers it, or nothing is delivered and a finite wait
times out (43_transport.md R136, 70_reset_and_hazards.md R197). -/
def Delivers (t : Timeout) (o : RxOutcome) (s : State) : Prop :=
  (tokenAnswer s = .deliver o ∧ enabledAt t o = true) ∨ (NoDelivery t s ∧ t ≠ .inf ∧ o = .timeout)

/-- An exchange of CONFIGURE has begun from `s`, `out` being what its CORE step answers: the frame is
transmitted, and the CORE waits 1000 ms for the response, or faults where the Transmit ended in a link error
(44_sequencer.md R147). -/
def ExchangeBegun (bs : List Byte) (s : State) (out : Host.Outcome State Fault Refusal) : Prop :=
  ∃ v, Transmitted bs (txAnswer s) s v ∧
    (txAnswer s = .sent → out = .next { v with phase := .await .cfg .afterAwait }) ∧
    (txAnswer s = .linkError → ∃ t, out = .next t ∧ Faulted .linkError v t)

/-- The wire frame instruction `i` transmits these meaningful bytes, the TOKEN choosing the outcome. -/
def Sends (i : Instr) (bs : List Byte) (s : State) : Prop :=
  ∃ t, exec i s = .next t ∧ Transmitted bs (txAnswer s) s t

/-- A token OPEN may take (43_transport.md R139). -/
def Eligible (s : State) (d : Token) : Prop :=
  d.vid = s.params.vid ∧ d.pid = s.params.pid ∧
    (s.filterLen = 0 ∨ d.serial = windowBytes s 0x340 s.filterLen.toNat)

/-- `exec` of one instruction after another, each on the state the one before leaves. -/
def execAll : List Instr → State → State → Prop
  | [], s, t => t = s
  | i :: is, s, t => ∃ u, exec i s = .next u ∧ execAll is u t

/-- Every element of the internal state holds its value of R186 (70_reset_and_hazards.md). -/
structure InternalsReset (t : State) : Prop where
  opl : t.opl = 0
  al : t.al = 0
  bl : t.bl = 0
  cl : t.cl = 0
  phase : t.phase = .idle
  att : t.att = 0
  cancelReq : t.cancelReq = false
  chunk : t.chunk = []
  chunkN : t.chunkN = 0
  session : t.session = none
  outLog : t.outLog = []
  linkLog : t.linkLog = []

/-! ## Invariants -/

/-- Every listed byte lies in a buffer of the window, so no reserved offset holds state (10_state.md R51). -/
def BuffersOnly (s : State) : Prop :=
  ∀ c ∈ s.mem, 0x040 ≤ c.1 ∧ c.1 < 0x380 ∧ accessOf c.1 ≠ .reserved

/-- STATUS.OPEN is 1 if and only if a session is open (10_state.md R55). -/
def SessionAgrees (s : State) : Prop := s.status.opened = s.session.isSome

/-- The relations among STATUS and PH (10_state.md R18, R53). -/
structure StatusAgrees (s : State) : Prop where
  busyPhase : s.status.busy = true ↔ s.phase ≠ .idle
  busyDone : s.status.busy = true → s.status.done = false
  errDone : s.status.err = true → s.status.done = true

/-- The steps of CONFIGURE that wait for a response (44_sequencer.md R148 to R158). -/
def awaitingSteps : List Byte := [1, 2, 4, 6, 8, 9, 11]

/-- The phase is a position of the latched operation's own pseudocode (10_state.md R53, 40_control.md R107). -/
def PhaseOfOperation (s : State) : Prop :=
  match s.phase with
  | .idle => True
  | .ready .start => True
  | .ready .loopTop => s.opl = 0x60 ∨ s.opl = 0x61
  | .ready .afterAwait => False
  | .ready .afterInput => False
  | .await t .afterAwait =>
    (s.opl = 0x43 ∧ (t = .cfg ∨ t = .wipe)) ∨ (s.opl = 0x44 ∧ t = .cfg) ∨
      (s.opl = 0x50 ∧ t = .cfg ∧ s.seqStep ∈ awaitingSteps) ∨ (s.opl = 0x60 ∧ t = .inf) ∨
      (s.opl = 0x61 ∧ t = .inf) ∨ (s.opl = 0x62 ∧ t = .wipe)
  | .await _ .start => False
  | .await _ .loopTop => False
  | .await _ .afterInput => False
  | .input .afterInput => s.opl = 0x61
  | .input .start => False
  | .input .loopTop => False
  | .input .afterAwait => False

/-- WAITIN is 1 only while SEED_STREAM waits for a chunk (10_state.md R18). -/
def WaitinAgrees (s : State) : Prop := s.status.waitin = true → s.phase = .input .afterInput

/-- The values the narrow registers keep to: SEQ_STEP at most 11 (R21), KEYFLAGS bits 7:2 zero (R27),
RESULT 0, 1 or 2 (R31), LAST_DIAG a diagnostic's code (R38, R162), ERR_CODE zero unless ERR is 1 (R19). -/
structure RegistersInRange (s : State) : Prop where
  seqStep : s.seqStep.toNat ≤ 11
  keyFlags : s.keyFlags &&& 0xFC = 0
  result : s.result = 0 ∨ s.result = 1 ∨ s.result = 2
  lastDiag : s.lastDiag = 0 ∨ s.lastDiag = 0x03 ∨ s.lastDiag = 0x14
  errCode : s.status.err = false → s.errCode = 0

/-- A link event has the sizes of the link: a frame of 64 bytes, a response of 1 to 64 (20_memory.md R76). -/
def linkEventSized : LinkEvent → Prop
  | .tx frame _ => frame.length = 64
  | .rx (.data b) => 1 ≤ b.length ∧ b.length ≤ 64
  | .rx .timeout => True
  | .rx .linkError => True

/-- An output event has the size of its kind (10_state.md R56). -/
def outEventSized : OutEvent → Prop
  | .persist img => img.length = 146
  | .rngData d => d.length = 32
  | .seedSummary _ => True
  | .diag _ => True

/-- The lengths the link and the ports keep to (10_state.md R24, R25, R54, R56, R57). -/
structure LengthsInRange (s : State) : Prop where
  rxLen : s.rxLen.toNat ≤ 64
  txLen : s.txLen.toNat ≤ 64
  chunk : s.chunk.length = s.chunkN.toNat
  chunkMax : s.chunkN.toNat ≤ 20
  links : ∀ e ∈ s.linkLog, linkEventSized e
  outs : ∀ e ∈ s.outLog, outEventSized e

/-- The buffers are held in their canonical form, and nothing else is held there. -/
structure MemoryInv (s : State) : Prop where
  canonical : Memory.wf s.mem = true
  buffers : BuffersOnly s

/-- The values and lengths of the registers and the logs. -/
structure ValuesInv (s : State) : Prop where
  registers : RegistersInRange s
  lengths : LengthsInRange s

/-- What holds of every state the machine reaches, as far as the flow of its operations goes. -/
structure FlowInv (s : State) : Prop where
  status : StatusAgrees s
  phase : PhaseOfOperation s
  waitin : WaitinAgrees s
  session : SessionAgrees s

/-- The move is one this hardware has: a HOST access is one byte wide (20_memory.md R62). -/
def moveIsAccess : Move → Bool
  | .core => true
  | .hostRead _ n => decide (n = 1)
  | .hostWrite _ v => decide (v.length = 1)
  | .wait => true
  | .waitin => true
  | .reset => true

/-- `n` steps of the system, each ending in a next state. -/
def stepRuns : Nat → State → State → Prop
  | 0, s, t => t = s
  | n + 1, s, t => ∃ u, step s = .next u ∧ stepRuns n u t

/-- `n` steps of the CORE, each ending in a next state. -/
def coreRuns : Nat → State → State → Prop
  | 0, s, t => t = s
  | n + 1, s, t => ∃ u, coreStep s = .next u ∧ coreRuns n u t

end Sys2Proof.Machine
end

