-- ==== Sys2Proof/Certificates/Slice0/Obligations.lean ====
section
/-! DEFINITION. The statements for the provers. `windowBytes s base n` is what the HOST reads from `base` on;
`SameWindowBut` says that every other byte of the window reads as before, and `KeepsInternals`,
`KeepsControl`, `KeepsLatch` and `KeepsLogs` that the state outside the window is unchanged. -/

section
open Sys2Proof Sys2Proof.Machine

/-! ## Encoding -/

/-- Decoding an encoded operation gives it back, every argument at every value (30_encoding.md R77, R80,
R81). -/
def Obligations.CommandWordsRoundTrip : Prop :=
  ∀ (p : Params) (i : Instr), i.isCommand = true → i.wellFormed = true →
    (encode p i).length = 4 ∧ decodeCommand (encode p i) = .ok i

/-- Decoding an encoded wire frame gives it back, every payload at every value, where the identifiers tell
the frames apart (30_encoding.md R86, R87, R91 to R104; the premise is assumption 13). -/
def Obligations.WireFramesRoundTrip : Prop :=
  ∀ (p : Params) (i : Instr), p.cmd.Unambiguous → i.isCommand = false → i.wellFormed = true →
    (encode p i).length ≤ 64 ∧ decodeFrame p (encode p i) = .ok i

/-- Whatever the identifiers, a frame that decodes is the encoding of what it decodes to, and that is a
well-formed frame (30_encoding.md R86, R87). -/
def Obligations.DecodedFramesEncodeBack : Prop :=
  ∀ (p : Params) (bs : List Byte) (i : Instr), decodeFrame p bs = .ok i →
    i.isCommand = false ∧ i.wellFormed = true ∧ encode p i = bs

/-- Which bits of a command word an operation takes, and which OPC values are reserved (30_encoding.md R78
to R81): A whole for CRC_BYTE, SEND, RECV and RECV_RETRY, bit 0 of A for KDF, B and C for SEND. -/
def Obligations.ArgumentBitsTaken : Prop :=
  ∀ (p : Params) (op a b c : Byte),
    encode p (decodeWord op a b c) =
        [op,
         if op ∈ [0x11#8, 0x42#8, 0x43#8, 0x44#8] then a else if op = 0x20 then a &&& 0x01 else 0,
         if op = 0x42 then b else 0,
         if op = 0x42 then c else 0] ∧
      (decodeWord op a b c).wellFormed = true ∧
      (decodeWord op a b c = .reserved op ↔
        op ∉ [0x00#8, 0x10#8, 0x11#8, 0x12#8, 0x13#8, 0x20#8, 0x30#8, 0x40#8, 0x41#8, 0x42#8, 0x43#8,
              0x44#8, 0x50#8, 0x60#8, 0x61#8, 0x62#8, 0x63#8, 0x64#8, 0x65#8])

/-- A few words written out from the tables (30_encoding.md R77, R80, R86, R91). The last clause is the
decoder's first match: where another short command has IS_BUILD's identifier too, which R7 allows, that the
frame reads as is-build is the model's choice (assumption 13). -/
def Obligations.SampleWordsDecode : Prop :=
  decodeTableWord 32 0x00000000 = some .nop ∧
    decodeTableWord 32 0x11800000 = some (.crcByte 0x80) ∧
    decodeTableWord 32 0x20FF0000 = some (.kdf true) ∧
    decodeTableWord 32 0x42018B05 = some (.send 0x01 0x8B 0x05) ∧
    decodeTableWord 32 0x44050000 = some (.recvRetry 0x05) ∧
    decodeTableWord 32 0x65000000 = some .bootDestroy ∧
    decodeTableWord 32 0x66000000 = some (.reserved 0x66) ∧
    ∀ p : Params, decodeFrame p [0x00, p.cmd.isBuild] = .ok .wireIsBuild

/-! ## Steps of the system -/

/-- A CORE step runs the operation the latch holds, and in phase IDLE there is none (40_control.md R107,
10_state.md R52). -/
def Obligations.StepRunsTheLatchedOperation : Prop :=
  ∀ (s : State) (rest : List Move),
    (s.sched = [] ∧ rest = []) ∨ s.sched = .core :: rest →
      (s.phase = .idle → step s = .next { s with sched := rest }) ∧
        (s.phase ≠ .idle →
          step s = exec (decodeWord s.opl s.al s.bl s.cl) { s with sched := rest })

/-- A command word placed by withFetchWord is the operation the next step runs: from the state in which the
HOST has written the arguments and issued it (40_control.md R106; that no HOST step is left to take is the
model's choice, assumption 4). -/
def Obligations.PlacedCommandWordRuns : Prop :=
  ∀ (s : State) (w : Nat) (i : Instr), decodeTableWord 32 w = some i →
    step (s.withFetchWord 32 w) =
      exec i
        (State.issue (BitVec.ofNat 8 (w >>> 24))
          { s with argA := BitVec.ofNat 8 (w >>> 16), argB := BitVec.ofNat 8 (w >>> 8),
                   argC := BitVec.ofNat 8 w })

/-- A wire frame placed by withFetchWord is transmitted by the next step, in a SEND that ends or, on a link
error, faults (30_encoding.md R93, 43_transport.md R141; assumption 4). -/
def Obligations.PlacedFrameIsTransmitted : Prop :=
  ∀ (s : State) (nbits w : Nat) (i : Instr), nbits ≠ 32 → s.params.longBcnt = false →
    i.isCommand = false → i.wellFormed = true → bytesOfNat (nbits / 8) w = encode s.params i →
    ∃ t, step (s.withFetchWord nbits w) = .next t ∧
      t.linkLog = s.linkLog ++ [.tx (zeroPadded (encode s.params i)) (txAnswer s)] ∧
      windowBytes t 0x040 64 = zeroPadded (encode s.params i) ∧
      t.status.err = (txAnswer s == .linkError) ∧ t.phase = .idle ∧ t.sched = s.sched

/-- A HOST access is one step, of one byte; a read changes nothing of the CORE, and an access of another
width is refused (20_memory.md R62, R66, R70). -/
def Obligations.HostAccessesAreSingleBytes : Prop :=
  ∀ (s : State) (off : Offset) (rest : List Move),
    (s.sched = .hostRead off 1 :: rest →
      step s = .next { s with sched := rest, rdata := s.readByte off }) ∧
      (∀ v, s.sched = .hostWrite off [v] :: rest →
        step s = .next (State.writeByte off v { s with sched := rest })) ∧
      (∀ n, n ≠ 1 → s.sched = .hostRead off n :: rest → step s = .refused (.accessWidth n)) ∧
      (∀ vs : List Byte, vs.length ≠ 1 → s.sched = .hostWrite off vs :: rest →
        step s = .refused (.accessWidth vs.length))

/-! ## The register window -/

/-- While an operation runs, a write to a RW register but SEED_CHUNK is dropped and sets OVR, and nothing
else changes (20_memory.md R64, 40_control.md R106). -/
def Obligations.BusyWritesAreDropped : Prop :=
  ∀ (s : State) (off : Offset) (v : Byte), s.status.busy = true →
    inRanges [(0x000, 4), (0x00C, 6), (0x0C0, 416), (0x340, 64)] off.toNat = true →
    s.writeByte off v = { s with status := { s.status with ovr := true } }

/-- A write that takes effect stores its byte and nothing else: to a RW register but OPC while no operation
runs, to SEED_CHUNK at any time; KEYFLAGS keeps bits 1:0 (20_memory.md R64, R65, 10_state.md R27, R48). -/
def Obligations.AcceptedWritesAreStored : Prop :=
  ∀ (s : State) (off : Offset) (v : Byte),
    (s.status.busy = false ∧
        inRanges [(0x001, 3), (0x00C, 6), (0x0C0, 416), (0x340, 64)] off.toNat = true) ∨
      inRanges [(0x320, 20)] off.toNat = true →
    (s.writeByte off v).readByte off = (if off = 0x00D then v &&& 0x03 else v) ∧
      SameWindowBut [(off.toNat, 1)] s (s.writeByte off v) ∧
      KeepsInternals s (s.writeByte off v) ∧
      (s.writeByte off v).status = s.status ∧
      (s.writeByte off v).phase = s.phase ∧ (s.writeByte off v).att = s.att

/-- Writes to read-only and reserved offsets change nothing, OVR included, and write-only and reserved
offsets read 0x00 (20_memory.md R64, R65, 10_state.md R51). -/
def Obligations.ReadOnlyAndReservedOffsets : Prop :=
  ∀ (s : State) (off : Offset) (v : Byte),
    (inRanges [(0x004, 4), (0x009, 3), (0x012, 1), (0x014, 44), (0x040, 128), (0x260, 192),
        (0x334, 12), (0x380, 128)] off.toNat = true → s.writeByte off v = s) ∧
      (inRanges [(0x008, 1), (0x013, 1), (0x025, 27), (0x284, 28), (0x2C4, 28), (0x334, 12)]
        off.toNat = true → s.readByte off = 0x00)

/-- The fields of STATUS stand at their bits, every single-byte register reads as its field at its offset, and
every multi-byte register has its most significant byte at its lowest offset (10_state.md R15 to R38, 20_memory.md
R61). -/
def Obligations.WindowShowsTheFields : Prop :=
  ∀ s : State,
    (s.readByte 0x004).getLsbD 0 = s.status.busy ∧ (s.readByte 0x004).getLsbD 1 = s.status.done ∧
      (s.readByte 0x004).getLsbD 2 = s.status.err ∧ (s.readByte 0x004).getLsbD 3 = s.status.ovr ∧
      (s.readByte 0x004).getLsbD 4 = s.status.opened ∧ (s.readByte 0x004).getLsbD 5 = s.status.outv ∧
      (s.readByte 0x004).getLsbD 6 = s.status.tmo ∧ (s.readByte 0x004).getLsbD 7 = s.status.waitin ∧
      s.readByte 0x000 = s.opc ∧ s.readByte 0x001 = s.argA ∧ s.readByte 0x002 = s.argB ∧
      s.readByte 0x003 = s.argC ∧ s.readByte 0x005 = s.errCode ∧ s.readByte 0x006 = s.errStep ∧
      s.readByte 0x007 = s.seqStep ∧ s.readByte 0x009 = s.tries ∧ s.readByte 0x00A = s.rxLen ∧
      s.readByte 0x00B = s.txLen ∧ s.readByte 0x00C = s.serialLen ∧ s.readByte 0x00D = s.keyFlags ∧
      s.readByte 0x00E = s.wkeyLen ∧ s.readByte 0x00F = s.rkeyLen ∧ s.readByte 0x010 = s.attkeyLen ∧
      s.readByte 0x011 = s.filterLen ∧ s.readByte 0x012 = s.result ∧ s.readByte 0x024 = s.lastDiag ∧
      s.readByte 0x014 ++ s.readByte 0x015 = s.crcAcc ∧
      s.readByte 0x016 ++ s.readByte 0x017 = s.crcOut ∧
      s.readByte 0x018 ++ s.readByte 0x019 ++ s.readByte 0x01A ++ s.readByte 0x01B = s.seedCount ∧
      s.readByte 0x01C ++ s.readByte 0x01D ++ s.readByte 0x01E ++ s.readByte 0x01F = s.rngCount ∧
      s.readByte 0x020 ++ s.readByte 0x021 ++ s.readByte 0x022 ++ s.readByte 0x023 = s.diagCount

/-- TEMPLATE shows `P_TEMPLATE`, and no step of any agent changes it (10_state.md R50). -/
def Obligations.TemplateNeverChanges : Prop :=
  (∀ (s : State) (i : Fin 128), s.readByte (BitVec.ofNat 10 (0x380 + i.val)) = s.params.template[i]) ∧
    ∀ s t : State, step s = .next t → t.params = s.params

/-- The HOST's write of OPC while no operation runs issues it: the latch, the flags and the phase, and
nothing else; while one runs it is dropped and sets OVR (40_control.md R106, 10_state.md R16, R52). -/
def Obligations.IssueLatchesTheOperation : Prop :=
  ∀ (s : State) (v : Byte),
    (s.status.busy = true → s.writeByte 0x000 v = { s with status := { s.status with ovr := true } }) ∧
    (s.status.busy = false →
    let t := s.writeByte 0x000 v
    t.opc = v ∧ t.opl = v ∧ t.al = s.argA ∧ t.bl = s.argB ∧ t.cl = s.argC ∧
      t.status = { s.status with busy := true, done := false, err := false, ovr := false } ∧
      t.errCode = 0x00 ∧ t.errStep = 0x00 ∧ t.cancelReq = false ∧ t.phase = .ready .start ∧
      SameWindowBut [(0x000, 1), (0x004, 3)] s t ∧ KeepsLogs s t ∧ t.session = s.session ∧
      t.att = s.att ∧ t.chunk = s.chunk ∧ t.chunkN = s.chunkN ∧ t.params = s.params ∧
      t.sched = s.sched ∧ t.rdata = s.rdata)

/-- A write of CTRL requests a cancel where its bit 0 is 1, whether or not an operation runs, and does
nothing else (40_control.md R111, 10_state.md R22). -/
def Obligations.CancelRequestIsBitZero : Prop :=
  ∀ (s : State) (v : Byte),
    (v.getLsbD 0 = true → s.writeByte 0x008 v = { s with cancelReq := true }) ∧
      (v.getLsbD 0 = false → s.writeByte 0x008 v = s)

/-- A write of SEED_IN commits a chunk where SEED_STREAM waits for one and the length is at most 20, and is
dropped otherwise (45_supplementary.md R165). -/
def Obligations.SeedInCommitsAChunk : Prop :=
  ∀ (s : State) (n : Byte),
    (s.status.busy = true ∧ s.opl = 0x61 ∧ s.status.waitin = true ∧ n.toNat ≤ 20 →
      s.writeByte 0x013 n =
        { s with chunk := windowBytes s 0x320 n.toNat, chunkN := n,
                 status := { s.status with waitin := false } }) ∧
      (¬ (s.status.busy = true ∧ s.opl = 0x61 ∧ s.status.waitin = true ∧ n.toNat ≤ 20) →
        s.writeByte 0x013 n = { s with status := { s.status with ovr := true } })

/-- Two memories in canonical form that read alike are equal data. -/
def Obligations.CanonicalMemoriesAreEqual : Prop :=
  ∀ m n : List Host.Cell, Memory.wf m = true → Memory.wf n = true →
    (∀ a, Memory.read m a = Memory.read n a) → m = n

/-- In State.reset, and after a reset at any time, every register and buffer reads 0x00 and the internal state
is that of R186; TEMPLATE reads as the parameter, which no reset changes (70_reset_and_hazards.md R185,
R186). -/
def Obligations.ResetGivesEveryValue : Prop :=
  (∀ off : Offset, off.toNat < 0x380 → State.reset.readByte off = 0x00) ∧
    (∀ i : Fin 128,
      State.reset.readByte (BitVec.ofNat 10 (0x380 + i.val)) = Config.params.template[i]) ∧
    InternalsReset State.reset ∧
    ∀ (s : State) (rest : List Move), s.sched = .reset :: rest →
      ∃ t, step s = .next t ∧
        (∀ off : Offset, off.toNat < 0x380 → t.readByte off = 0x00) ∧
        (∀ off : Offset, 0x380 ≤ off.toNat → t.readByte off = s.readByte off) ∧
        InternalsReset t

/-! ## Operations of one step -/

/-- NOP ends, and a reserved code faults with IllegalOp, each in one step and with no other effect
(40_control.md R109, R110). -/
def Obligations.NopEndsAndReservedFaults : Prop :=
  ∀ (s : State) (op : Byte),
    (∃ t, exec .nop s = .next t ∧ Ended s t) ∧
      (∃ t, exec (.reserved op) s = .next t ∧ Faulted .illegalOp s t)

/-- CRC_INIT, CRC_BYTE and CRC_FINAL (41_crc.md R115, R116, R117). -/
def Obligations.CrcRegisterOperations : Prop :=
  ∀ (s : State) (b : Byte),
    (∃ t, exec .crcInit s = .next t ∧ t.crcAcc = 0x0000 ∧ EndedFrom s.status t ∧
        SameWindowBut [(0x004, 1), (0x014, 2)] s t ∧ KeepsInternals s t) ∧
      (∃ t, exec (.crcByte b) s = .next t ∧ t.crcAcc = crcStep s.crcAcc b ∧ EndedFrom s.status t ∧
        SameWindowBut [(0x004, 1), (0x014, 2)] s t ∧ KeepsInternals s t) ∧
      (∃ t, exec .crcFinal s = .next t ∧ t.crcOut = rev16 s.crcAcc ∧ EndedFrom s.status t ∧
        SameWindowBut [(0x004, 1), (0x016, 2)] s t ∧ KeepsInternals s t)

/-- CRC_BLOB runs the CRC over the 128 bytes of CFG (41_crc.md R118). -/
def Obligations.CrcBlobChecksumsCfg : Prop :=
  ∀ s : State, ∃ t, exec .crcBlob s = .next t ∧
    t.crcAcc = (windowBytes s 0x100 128).foldl crcStep 0x0000 ∧
    t.crcOut = rev16 ((windowBytes s 0x100 128).foldl crcStep 0x0000) ∧ EndedFrom s.status t ∧
    SameWindowBut [(0x004, 1), (0x014, 4)] s t ∧ KeepsInternals s t

/-- Bit `i` of the reversal is bit `15 - i`, so reversing twice changes nothing (41_crc.md R113, R119). -/
def Obligations.BitReversalMovesEachBit : Prop :=
  ∀ x : Word16, (∀ i, i < 16 → (rev16 x).getLsbD i = x.getLsbD (15 - i)) ∧ rev16 (rev16 x) = x

/-- `crc_step` is the loop of R112, with its worked example; the CRC of no byte and of zero bytes is 0x0000; and
the CRC of any bytes, fed one by one between CRC_INIT and CRC_FINAL, is `crc16` of them, for the bytes of CFG
CRC_BLOB's (41_crc.md R112, R119). -/
def Obligations.CrcBytewiseEqualsBlob : Prop :=
  (∀ (acc : Word16) (b : Byte),
      crcStep acc b =
        Nat.iterate (fun a : Word16 => if a.getLsbD 0 then (a >>> 1) ^^^ 0xA001#16 else a >>> 1) 8
          (acc ^^^ b.setWidth 16)) ∧
    crcStep 0x0000 0x01 = 0xC0C1 ∧ crc16 [] = 0x0000 ∧
    (∀ n, crc16 (List.replicate n 0x00) = 0x0000) ∧
  ∀ (s : State) (bs : List Byte),
    ∃ t, execAll (.crcInit :: (bs.map Instr.crcByte ++ [.crcFinal])) s t ∧ t.crcOut = crc16 bs ∧
      (bs = windowBytes s 0x100 128 →
        ∃ u, exec .crcBlob s = .next u ∧ u.crcOut = t.crcOut ∧ u.crcAcc = t.crcAcc)

/-- KDF writes the two digests and the mask of the key that bit 0 of A selects, and not the other mask
(42_sha_kdf.md R128, R129, R130, R132). -/
def Obligations.KdfDerivesTheSelectedMask : Prop :=
  ∀ (s : State) (readKey : Bool),
    let k := windowBytes s (if readKey then 0x220 else 0x200) 32
    let mask := if readKey then 0x2A0 else 0x260
    ∃ t, exec (.kdf readKey) s = .next t ∧
      windowBytes t 0x2E0 32 = sha256 (k ++ kdfSuffix) ∧
      windowBytes t 0x300 32 = sha256 (sha256 (k ++ kdfSuffix)) ∧
      windowBytes t mask 36 = sha256 (k ++ kdfSuffix) ++ (sha256 (sha256 (k ++ kdfSuffix))).take 4 ∧
      EndedFrom s.status t ∧
      SameWindowBut [(0x004, 1), (0x2E0, 64), (mask, 36)] s t ∧ KeepsInternals s t

/-- The text of bytes is two digits a byte, the high nibble's first, out of 0 to 9 and a to f; a mask is 36 bytes
and its text 72 such digits; and the mask of the zero key is the one the spec gives (00_scope.md R9,
42_sha_kdf.md R130, R131, R133). -/
def Obligations.MaskLengthsAndZeroKey : Prop :=
  (∀ (bs : List Byte) (i : Nat) (b : Byte), bs[i]? = some b →
      let digits : List Byte := [0x30, 0x31, 0x32, 0x33, 0x34, 0x35, 0x36, 0x37, 0x38, 0x39,
        0x61, 0x62, 0x63, 0x64, 0x65, 0x66]
      (hexText bs)[2 * i]? = digits[b.toNat / 16]? ∧
        (hexText bs)[2 * i + 1]? = digits[b.toNat % 16]?) ∧
  (∀ k : List Byte, (deriveMask k).length = 36 ∧ (hexText (deriveMask k)).length = 72 ∧
      ∀ c ∈ hexText (deriveMask k),
        (0x30 ≤ c.toNat ∧ c.toNat ≤ 0x39) ∨ (0x61 ≤ c.toNat ∧ c.toNat ≤ 0x66)) ∧
    deriveMask (List.replicate 32 0x00) =
      [0xbc, 0x09, 0x32, 0xea, 0xa5, 0xaf, 0xe6, 0x2a, 0x0f, 0x2a, 0x99, 0xe9, 0xbd, 0x6a, 0x7c, 0x7b,
       0x7a, 0x81, 0xc4, 0x46, 0xd4, 0xec, 0x24, 0xed, 0x8b, 0xf9, 0x28, 0x59, 0xfb, 0x07, 0xa7, 0xc1,
       0x87, 0xbb, 0x0a, 0xe2]

/-- PATCH lays the serial over the template, or faults where its length is above 128 (44_sequencer.md
R145). -/
def Obligations.PatchOverlaysTheSerial : Prop :=
  ∀ s : State,
    (s.serialLen.toNat ≤ 128 →
      ∃ t, exec .patch s = .next t ∧
        windowBytes t 0x100 128 =
          windowBytes s 0x180 s.serialLen.toNat ++ s.params.template.toList.drop s.serialLen.toNat ∧
        EndedFrom s.status t ∧ SameWindowBut [(0x004, 1), (0x100, 128)] s t ∧ KeepsInternals s t) ∧
      (128 < s.serialLen.toNat → ∃ t, exec .patch s = .next t ∧ Faulted .badArgument s t)

/-- CLOSE ends the session, whether or not one is open, and never faults (43_transport.md R140). -/
def Obligations.CloseEndsTheSession : Prop :=
  ∀ s : State, ∃ t, exec .closeDev s = .next t ∧ t.session = none ∧
    t.status = { s.status with opened := false, busy := false, done := true, waitin := false } ∧
    t.phase = .idle ∧ t.att = 0 ∧ SameWindowBut [(0x004, 1)] s t ∧ KeepsLatch s t ∧ KeepsLogs s t ∧
    t.cancelReq = s.cancelReq

/-- OPEN: a session already open, a filter too long, no match and a refusal fault in that order; otherwise
the session is with an attached token that matches (43_transport.md R139). -/
def Obligations.OpenAttachesToAMatch : Prop :=
  ∀ s : State,
    (s.status.opened = true → ∃ t, exec .openDev s = .next t ∧ Faulted .sessionBusy s t) ∧
      (s.status.opened = false ∧ 64 < s.filterLen.toNat →
        ∃ t, exec .openDev s = .next t ∧ Faulted .badArgument s t) ∧
      (s.status.opened = false ∧ s.filterLen.toNat ≤ 64 ∧
          ((openAnswer s).pick = none ∨ ∀ d ∈ (openAnswer s).attached, ¬ Eligible s d) →
        ∃ t, exec .openDev s = .next t ∧ Faulted .deviceNotFound s.dropOpen t) ∧
      (∀ k, s.status.opened = false ∧ s.filterLen.toNat ≤ 64 ∧ (openAnswer s).pick = some k ∧
          (∃ d ∈ (openAnswer s).attached, Eligible s d) →
        ∃ t d, exec .openDev s = .next t ∧ d ∈ (openAnswer s).attached ∧ Eligible s d ∧
          t.session = some d ∧ t.phase = .idle ∧ t.att = 0 ∧
          t.status = { s.status with opened := true, busy := false, done := true, waitin := false } ∧
          SameWindowBut [(0x004, 1)] s t ∧ KeepsLatch s t ∧ t.cancelReq = s.cancelReq ∧
          t.outLog = s.outLog ∧ t.linkLog = s.linkLog)

/-- With several matching tokens any of them may be the one OPEN takes: the choice is the ENVIRONMENT's
(43_transport.md R139). -/
def Obligations.OpenMayTakeEveryMatch : Prop :=
  ∀ (s : State) (ts : List Token) (d : Token), s.status.opened = false → s.filterLen.toNat ≤ 64 →
    d ∈ ts → Eligible s d →
    ∃ k, ∀ more,
      ∃ t, exec .openDev
            { s with env := { s.env with opens := { attached := ts, pick := some k } :: more } } =
          .next t ∧
        t.session = some d ∧ t.status.opened = true

/-- The ten link operations fault with NoSession before anything else where no session is open; CONFIGURE
has by then cleared OUTV and SEQ_STEP (43_transport.md R138). -/
def Obligations.LinkOperationsNeedASession : Prop :=
  ∀ (s : State) (i : Instr), s.status.opened = false → s.phase = .ready .start →
    ((∃ f c n, i = .send f c n) ∨ (∃ a, i = .recv a) ∨ (∃ n, i = .recvRetry n) ∨ i = .rngStream ∨
        i = .seedStream ∨ i = .wipe ∨ i = .wink ∨ i = .boot ∨ i = .bootDestroy →
      ∃ t, exec i s = .next t ∧ Faulted .noSession s t) ∧
      (i = .configure →
        ∃ t, exec i s = .next t ∧ t.seqStep = 0 ∧ t.status.outv = false ∧
          Faulted .noSession { s with seqStep := 0, status := { s.status with outv := false } } t)

/-- SEND transmits the frame of its form, command byte and payload and ends; a link error faults, and so do no
session, a bad form and a length the form does not carry, in that order (43_transport.md R141,
30_encoding.md R86, R87). -/
def Obligations.SendTransmitsTheFrame : Prop :=
  ∀ (s : State) (form c n : Byte),
    let p := windowBytes s 0x0C0 n.toNat
    let frame := if form = 0 then shortFrame c p else longFrame s c p
    let fits := (form = 0 ∧ n.toNat ≤ 62) ∨
      (form = 1 ∧ n.toNat ≤ if s.params.longBcnt then 56 else 58)
    (s.status.opened = false → ∃ t, exec (.send form c n) s = .next t ∧ Faulted .noSession s t) ∧
      (s.status.opened = true → ¬ fits →
        ∃ t, exec (.send form c n) s = .next t ∧ Faulted .badArgument s t) ∧
      (s.status.opened = true → fits → txAnswer s = .sent →
        ∃ u t, Transmitted frame .sent s u ∧ exec (.send form c n) s = .next t ∧ Ended u t) ∧
      (s.status.opened = true → fits → txAnswer s = .linkError →
        ∃ u t, Transmitted frame .linkError s u ∧ exec (.send form c n) s = .next t ∧
          Faulted .linkError u t)

/-- WINK sends one long frame; BOOT and BOOT_DESTROY send their command in the short and then the long form,
a link error of the first stopping them before the second; without a session each of them faults
(45_supplementary.md R167, R168, R169). -/
def Obligations.WinkAndBootSendTheirFrames : Prop :=
  ∀ s : State,
    (s.status.opened = false → ∀ i ∈ [Instr.wink, .boot, .bootDestroy],
      ∃ t, exec i s = .next t ∧ Faulted .noSession s t) ∧
    (s.status.opened = true →
      (txAnswer s = .sent →
        ∃ u t, Transmitted (longFrame s s.params.cmd.wink []) .sent s u ∧ exec .wink s = .next t ∧
          Ended u t) ∧
      (txAnswer s = .linkError →
        ∃ u t, Transmitted (longFrame s s.params.cmd.wink []) .linkError s u ∧
          exec .wink s = .next t ∧ Faulted .linkError u t) ∧
      ∀ i c, (i = .boot ∧ c = s.params.cmd.bootloader) ∨
          (i = .bootDestroy ∧ c = s.params.cmd.bootloaderDestroy) →
        (txAnswer s = .linkError →
          ∃ u t, Transmitted (shortFrame c []) .linkError s u ∧ exec i s = .next t ∧
            Faulted .linkError u t) ∧
          (txAnswer s = .sent →
            ∃ u, Transmitted (shortFrame c []) .sent s u ∧
              (txAnswer u = .sent →
                ∃ v t, Transmitted (longFrame s c []) .sent u v ∧ exec i s = .next t ∧ Ended v t) ∧
              (txAnswer u = .linkError →
                ∃ v t, Transmitted (longFrame s c []) .linkError u v ∧ exec i s = .next t ∧
                  Faulted .linkError v t)))

/-- The sixteen wire frames are transmitted with the bytes of their rules (30_encoding.md R86, R87, R91 to
R104, 43_transport.md R135; that a frame has a meaning of its own is the model's, assumption 4). -/
def Obligations.WireFramesAreTransmitted : Prop :=
  ∀ s : State,
    let c := s.params.cmd
    Sends .wireIsBuild (shortFrame c.isBuild []) s ∧ Sends .wireGetSerial (shortFrame c.getSerial []) s ∧
      Sends .wireIsConfigured (shortFrame c.isConfigured []) s ∧
      (∀ hi lo, Sends (.wireLock hi lo) (shortFrame c.lock [hi, lo]) s) ∧
      Sends .wireGenKey (shortFrame c.genKey []) s ∧
      (∀ k : List Byte, k.length = 32 → Sends (.wireLoadTransKey k) (shortFrame c.loadTransKey k) s) ∧
      (∀ k : List Byte, k.length = 36 → Sends (.wireLoadWriteKey k) (shortFrame c.loadWriteKey k) s) ∧
      (∀ k : List Byte, k.length = 32 → Sends (.wireLoadAttestKey k) (shortFrame c.loadAttestKey k) s) ∧
      Sends .wireBootloaderShort (shortFrame c.bootloader []) s ∧
      Sends .wireBootloaderLong (longFrame s c.bootloader []) s ∧
      Sends .wireBootloaderDestroyShort (shortFrame c.bootloaderDestroy []) s ∧
      Sends .wireBootloaderDestroyLong (longFrame s c.bootloaderDestroy []) s ∧
      Sends .wireRng (longFrame s c.rng []) s ∧
      (∀ k : List Byte, 1 ≤ k.length → k.length ≤ 20 → Sends (.wireSeed k) (longFrame s c.seed k) s) ∧
      Sends .wireWipe (longFrame s c.wipe []) s ∧ Sends .wireWink (longFrame s c.wink []) s

/-! ## Receiving -/

/-- RECV waits with the timeout A selects, faults without a session or where A selects none, and ends with
whatever outcome its wait receives, recorded and not a fault; a pending cancel is no matter and stays
(43_transport.md R142, R137, 40_control.md R111). That a wait in which the TOKEN delivers nothing receives its
timeout in that very CORE step is the model's choice (assumption 6): 70_reset_and_hazards.md R197 says only that
it eventually receives an outcome, at worst a timeout. -/
def Obligations.RecvCapturesTheOutcome : Prop :=
  ∀ (s : State) (a : Byte),
    (s.phase = .ready .start → s.status.opened = false →
      ∃ t, exec (.recv a) s = .next t ∧ Faulted .noSession s t) ∧
    (s.phase = .ready .start → s.status.opened = true →
      (a.toNat ≤ 1 → exec (.recv a) s =
        .next { s with tries := 1,
                       phase := .await (if a = 0 then .cfg else .wipe) .afterAwait }) ∧
      (1 < a.toNat → ∃ t, exec (.recv a) s = .next t ∧ Faulted .badArgument s t)) ∧
    (∀ lim o, s.phase = .await lim .afterAwait → Delivers lim o s →
      ∃ u t, Captured o s u ∧ exec (.recv a) s = .next t ∧ Ended u t) ∧
    (∀ lim, s.phase = .await lim .afterAwait → lim ≠ .inf → NoDelivery lim s →
      ∃ u t, Captured .timeout s u ∧ exec (.recv a) s = .next t ∧ Ended u t ∧
        t.cancelReq = s.cancelReq)

/-- RECV_RETRY: it faults without a session; each attempt is counted, a response ends it, and a failure starts
the next attempt while there is one; A = 0 selects five attempts (43_transport.md R143, 40_control.md R111). An
attempt in which the TOKEN delivers nothing fails by its timeout, a pending cancel or not; that it does so in that
very CORE step is the model's choice (assumption 6): 70_reset_and_hazards.md R197 says only that it eventually
receives an outcome, at worst a timeout. -/
def Obligations.RecvRetryStepByStep : Prop :=
  ∀ (s : State) (n : Byte),
    let attempts := if n = 0 then 5 else n.toNat
    (s.phase = .ready .start → s.status.opened = false →
      ∃ t, exec (.recvRetry n) s = .next t ∧ Faulted .noSession s t) ∧
    (s.phase = .ready .start → s.status.opened = true →
      exec (.recvRetry n) s =
        .next { s with att := 1, tries := 1, phase := .await .cfg .afterAwait }) ∧
    (∀ o, s.phase = .await .cfg .afterAwait → Delivers .cfg o s →
      ((∃ b, o = .data b) ∨ attempts ≤ s.att.toNat →
        ∃ u t, Captured o s u ∧ exec (.recvRetry n) s = .next t ∧ Ended u t) ∧
      ((o = .timeout ∨ o = .linkError) ∧ s.att.toNat < attempts →
        ∃ u, Captured o s u ∧
          exec (.recvRetry n) s =
            .next { u with att := s.att + 1, tries := s.att + 1, phase := .await .cfg .afterAwait })) ∧
    (s.phase = .await .cfg .afterAwait → NoDelivery .cfg s →
      ∃ t, exec (.recvRetry n) s = .next t ∧ t.linkLog = s.linkLog ++ [.rx .timeout] ∧
        t.result = 0x00 ∧ t.status.tmo = true ∧ t.status.err = s.status.err ∧
        t.cancelReq = s.cancelReq)

/-- A TOKEN that fails fewer times than there are attempts and then responds is accepted; one that fails at
every attempt is reported with its last failure, and no fault (43_transport.md R144). -/
def Obligations.RecvRetryWithFailures : Prop :=
  ∀ (s : State) (fails : List RxOutcome) (more : List TokenAnswer),
    let attempts := if s.al = 0 then 5 else s.al.toNat
    s.phase = .ready .start → s.opl = 0x44 → s.status.opened = true →
    (∀ o ∈ fails, o = .timeout ∨ o = .linkError) →
    (∀ b : List Byte, fails.length < attempts → 1 ≤ b.length → b.length ≤ 64 →
      s.env.rx = fails.map TokenAnswer.deliver ++ .deliver (.data b) :: more →
      ∃ t, coreRuns (fails.length + 2) s t ∧ t.result = 0x01 ∧ t.tries.toNat = fails.length + 1 ∧
        t.rxLen.toNat = b.length ∧ windowBytes t 0x080 64 = zeroPadded b ∧ t.phase = .idle ∧
        t.status = { s.status with busy := false, done := true, waitin := false, tmo := false } ∧
        t.linkLog = s.linkLog ++ fails.map LinkEvent.rx ++ [.rx (.data b)]) ∧
    (∀ last, fails.length = attempts → fails.getLast? = some last →
      s.env.rx = fails.map TokenAnswer.deliver ++ more →
      ∃ t, coreRuns (fails.length + 1) s t ∧ t.result = (if last = .timeout then 0x00 else 0x02) ∧
        t.tries.toNat = attempts ∧ t.rxLen = 0 ∧ t.phase = .idle ∧ t.env.rx = more ∧
        t.status = { s.status with busy := false, done := true, waitin := false, tmo := true } ∧
        t.linkLog = s.linkLog ++ fails.map LinkEvent.rx)

/-! ## CONFIGURE -/

/-- CONFIGURE begins with step 1: the is-build frame, then a wait of 1000 ms; a link error faults with
ERR_STEP 1 (44_sequencer.md R146, R147, R148). -/
def Obligations.ConfigureStartsWithIsBuild : Prop :=
  ∀ s : State, s.phase = .ready .start → s.status.opened = true →
    ExchangeBegun [0x00, s.params.cmd.isBuild]
      { s with seqStep := 0x01, status := { s.status with outv := false } } (exec .configure s)

/-- The exchange contract of steps 1, 4, 6, 8, 9 and 11: what ends the run, in its order, and with which code;
and what an accepted response of steps 1, 6, 9 and 11 goes on with: the request of step 2, the masks of step 7
and the frame of step 8, the output image of step 10 and the frame of step 11, each faulting where its Transmit
ends in a link error; or the end of the run (44_sequencer.md R147, R149, R154, R155, R157, R158, 60_exceptions.md
R175; the accepted responses of steps 4 and 8 are KeyAcquisition's and AttestationKeyCheckedBeforeSending's). That
a wait in which the TOKEN delivers nothing is a timeout in that very CORE step, and so the fault IOTimeout, is the
model's choice (assumption 6): 70_reset_and_hazards.md R197 says only that it eventually receives an outcome, at
worst a timeout. -/
def Obligations.ExchangeChecksTheResponse : Prop :=
  ∀ (s : State) (k : Byte) (e : ErrName) (o : RxOutcome),
    (k, e) ∈ [(0x01, ErrName.notConfigured), (0x04, .lockFailed), (0x06, .keyLoadFailed),
              (0x08, .keyLoadFailed), (0x09, .keyLoadFailed), (0x0B, .bootloaderTransitionFailed)] →
    s.phase = .await .cfg .afterAwait → s.seqStep = k → Delivers .cfg o s →
    let c := s.params.cmd
    let wkey := windowBytes s 0x200 32
    let rkey := windowBytes s 0x220 32
    ∃ u, Captured o s u ∧
      (NoDelivery .cfg s → o = .timeout) ∧
      (o = .timeout → ∃ t, exec .configure s = .next t ∧ Faulted .ioTimeout u t) ∧
      (o = .linkError → ∃ t, exec .configure s = .next t ∧ Faulted .linkError u t) ∧
      (∀ b, o = .data b → b.length < 2 →
        ∃ t, exec .configure s = .next t ∧ Faulted .protocolMismatch u t) ∧
      (∀ x y bs, o = .data (x :: y :: bs) → y ≠ 0x01 →
        ∃ t, exec .configure s = .next t ∧ Faulted e u t) ∧
      ∀ x bs, o = .data (x :: 0x01 :: bs) →
        (k = 0x01 →
          ∃ v, Transmitted [0x00, c.getSerial] (txAnswer u) { u with seqStep := 0x02 } v ∧
            (txAnswer u = .sent → exec .configure s =
              .next { v with att := 1, tries := 1, phase := .await .cfg .afterAwait }) ∧
            (txAnswer u = .linkError →
              ∃ t, exec .configure s = .next t ∧ Faulted .linkError v t)) ∧
        (k = 0x06 →
          ∃ w, windowBytes w 0x260 36 = deriveMask wkey ∧ windowBytes w 0x2A0 36 = deriveMask rkey ∧
            windowBytes w 0x2E0 32 = digest1 rkey ∧ windowBytes w 0x300 32 = digest2 rkey ∧
            w.seqStep = 0x08 ∧ w.status = u.status ∧
            SameWindowBut [(0x007, 1), (0x260, 36), (0x2A0, 36), (0x2E0, 64)] u w ∧
            KeepsControl u w ∧ KeepsLogs u w ∧
            ExchangeBegun ([0x00, c.loadWriteKey] ++ deriveMask wkey) w (exec .configure s)) ∧
        (k = 0x09 →
          ExchangeBegun [0x00, c.bootloader]
            { u with seqStep := 0x0B, status := { u.status with outv := true },
                     outLog := u.outLog ++ [.persist (hexText (windowBytes s 0x260 36) ++ [0x0A] ++
                       hexText (windowBytes s 0x2A0 36) ++ [0x0A])] }
            (exec .configure s)) ∧
        (k = 0x0B → ∃ t, exec .configure s = .next t ∧ Ended u t)

/-- Step 2's accepted response: the serial is stored, the blob patched and its CRC sent in the lock frame
(44_sequencer.md R149, R150, R151); a response of one byte and a serial not received whole fault with ERR_STEP
2. -/
def Obligations.SerialFetchStoresTheSerial : Prop :=
  (∀ s : State, s.phase = .await .cfg .afterAwait → s.seqStep = 0x02 →
    Delivers .cfg (.data [s.params.cmd.getSerial]) s →
    ∃ u t, Captured (.data [s.params.cmd.getSerial]) s u ∧ exec .configure s = .next t ∧
      Faulted .protocolMismatch u t) ∧
  ∀ (s : State) (len : Byte) (body : List Byte),
    let b := s.params.cmd.getSerial :: len :: body
    let serial := body.take len.toNat
    let blob := serial ++ s.params.template.toList.drop len.toNat
    let crc := rev16 (blob.foldl crcStep 0x0000)
    s.phase = .await .cfg .afterAwait → s.seqStep = 0x02 → Delivers .cfg (.data b) s →
    (body.length < len.toNat →
      ∃ u t, Captured (.data b) s u ∧ exec .configure s = .next t ∧ Faulted .protocolMismatch u t) ∧
    (len.toNat ≤ body.length →
      ∃ t, exec .configure s = .next t ∧ t.serialLen = len ∧
        windowBytes t 0x180 128 = serial ++ List.replicate (128 - len.toNat) 0x00 ∧
        windowBytes t 0x100 128 = blob ∧ t.crcOut = crc ∧ t.seqStep = 0x04 ∧ t.tries = s.tries ∧
        windowBytes t 0x040 64 =
          zeroPadded [0x00, s.params.cmd.lock, crc.extractLsb' 8 8, crc.extractLsb' 0 8] ∧
        SameWindowBut [(0x004, 4), (0x00A, 3), (0x012, 1), (0x014, 4), (0x040, 128), (0x100, 256)] s t ∧
        (txAnswer s.dropRx = .sent →
          t.phase = .await .cfg .afterAwait ∧ t.status.err = s.status.err) ∧
        (txAnswer s.dropRx = .linkError → t.phase = .idle ∧ t.status.err = true ∧ t.errCode = 0x14))

/-- Step 2's failed attempt: another while there is one, the request being sent again only in the variant
`P_SERIAL_RESEND`, where a link error of it is a failed attempt too, and after the fifth the fault of the last
failure (44_sequencer.md R149). That an attempt in which the TOKEN delivers nothing fails by its timeout in that
very CORE step is the model's choice (assumption 6, 70_reset_and_hazards.md R197). -/
def Obligations.SerialFetchRetries : Prop :=
  ∀ (s : State) (o : RxOutcome) (e : ErrName), s.phase = .await .cfg .afterAwait → s.seqStep = 0x02 →
    Delivers .cfg o s →
    (o = .timeout ∧ e = .ioTimeout) ∨ (o = .linkError ∧ e = .linkError) ∨
      (∃ x bs, o = .data (x :: bs) ∧ x ≠ s.params.cmd.getSerial ∧ e = .protocolMismatch) →
    ∃ u, Captured o s u ∧
      (s.params.serialResend = false → s.att.toNat < 5 →
        exec .configure s =
          .next { u with att := s.att + 1, tries := s.att + 1, phase := .await .cfg .afterAwait }) ∧
      (s.params.serialResend = true → 1 ≤ s.att.toNat → s.att.toNat < 5 → txAnswer u = .sent →
        ∃ v, Transmitted (shortFrame s.params.cmd.getSerial []) .sent
            { u with att := s.att + 1, tries := s.att + 1 } v ∧
          exec .configure s = .next { v with phase := .await .cfg .afterAwait }) ∧
      (5 ≤ s.att.toNat → ∃ t, exec .configure s = .next t ∧ Faulted e u t) ∧
      (s.params.serialResend = true → 1 ≤ s.att.toNat →
        ∀ (n : Nat) (more : List TxOutcome), 1 ≤ n → s.att.toNat + n ≤ 5 →
        s.env.tx = List.replicate n .linkError ++ more →
        let frame := zeroPadded (shortFrame s.params.cmd.getSerial [])
        (s.att.toNat + n < 5 → more.head? = some .sent →
          ∃ t, exec .configure s = .next t ∧ t.att.toNat = s.att.toNat + n + 1 ∧ t.tries = t.att ∧
            t.status = u.status ∧ t.phase = .await .cfg .afterAwait ∧
            t.linkLog = u.linkLog ++ List.replicate n (.tx frame .linkError) ++ [.tx frame .sent] ∧
            SameWindowBut [(0x009, 1), (0x00B, 1), (0x040, 64)] u t) ∧
        (s.att.toNat + n = 5 →
          ∃ t, exec .configure s = .next t ∧ t.errCode = 0x14 ∧ t.tries = 0x05 ∧ t.phase = .idle ∧
            t.status = { u.status with err := true, done := true, busy := false, waitin := false } ∧
            t.linkLog = u.linkLog ++ List.replicate n (.tx frame .linkError) ∧
            SameWindowBut [(0x004, 3), (0x009, 1), (0x00B, 1), (0x040, 64)] u t))

/-- Step 5, after an accepted lock: a supplied key of another length than 32 faults, the write key being
checked and drawn before the read key; what is not supplied is drawn; and step 6 sends the write key, a link
error of the Transmit being a fault (44_sequencer.md R147, R152, R153). -/
def Obligations.KeyAcquisition : Prop :=
  ∀ (s : State) (x : Byte) (bs : List Byte), s.phase = .await .cfg .afterAwait → s.seqStep = 0x04 →
    Delivers .cfg (.data (x :: 0x01 :: bs)) s →
    let wsup := s.keyFlags.getLsbD 0
    let rsup := s.keyFlags.getLsbD 1
    ∃ u, Captured (.data (x :: 0x01 :: bs)) s u ∧
      (wsup = true → s.wkeyLen ≠ 32 →
        ∃ t, exec .configure s = .next t ∧ Faulted .badArgument { u with seqStep := 0x05 } t) ∧
      (wsup = false → rsup = true → s.rkeyLen ≠ 32 →
        ∃ t, exec .configure s = .next t ∧ t.errCode = 0x13 ∧ t.seqStep = 0x05 ∧ t.phase = .idle ∧
          windowBytes t 0x200 32 = (drawAnswer u).toList ∧ t.wkeyLen = 32 ∧ t.linkLog = u.linkLog) ∧
      (wsup = true → s.wkeyLen = 32 → rsup = true → s.rkeyLen ≠ 32 →
        ∃ t, exec .configure s = .next t ∧ Faulted .badArgument { u with seqStep := 0x05 } t) ∧
      ((wsup = true → s.wkeyLen = 32) → (rsup = true → s.rkeyLen = 32) →
        ∀ d0 d1 ds, s.env.draws = d0 :: d1 :: ds →
        let wkey := if wsup then windowBytes s 0x200 32 else d0.toList
        let rkey := if rsup then windowBytes s 0x220 32 else (if wsup then d0 else d1).toList
        ∃ w, w.seqStep = 0x06 ∧ w.wkeyLen = 32 ∧ w.rkeyLen = 32 ∧ windowBytes w 0x200 32 = wkey ∧
          windowBytes w 0x220 32 = rkey ∧ w.status = u.status ∧
          SameWindowBut [(0x007, 1), (0x00E, 2), (0x200, 64)] u w ∧ KeepsControl u w ∧
          w.outLog = u.outLog ∧ w.linkLog = u.linkLog ∧ w.freeCount = u.freeCount ∧
          w.env = { u.env with
            draws := u.env.draws.drop ((if wsup then 0 else 1) + (if rsup then 0 else 1)) } ∧
          ExchangeBegun ([0x00, s.params.cmd.loadTransKey] ++ wkey) w (exec .configure s))

/-- Step 9: an attestation key of another length than 32 faults before any frame of the step, so that the
link sees nothing but the response of step 8; one of 32 is sent, a link error of the Transmit being a fault
(44_sequencer.md R147, R156, R160). -/
def Obligations.AttestationKeyCheckedBeforeSending : Prop :=
  ∀ (s : State) (x : Byte) (bs : List Byte), s.phase = .await .cfg .afterAwait → s.seqStep = 0x08 →
    Delivers .cfg (.data (x :: 0x01 :: bs)) s →
    ∃ u, Captured (.data (x :: 0x01 :: bs)) s u ∧
      (s.attkeyLen ≠ 32 →
        ∃ t, exec .configure s = .next t ∧
          Faulted .invalidAttestationKey { u with seqStep := 0x09 } t) ∧
      (s.attkeyLen = 32 →
        ExchangeBegun ([0x00, s.params.cmd.loadAttestKey] ++ windowBytes s 0x240 32)
          { u with seqStep := 0x09 } (exec .configure s))

/-- CONFIGURE emits nothing but the output image, and that only after the response of step 9 was accepted,
on the way to step 11 (44_sequencer.md R157, R160). -/
def Obligations.PersistOnlyAfterStepNine : Prop :=
  ∀ s t : State, exec .configure s = .next t → t.outLog ≠ s.outLog →
    s.seqStep = 0x09 ∧ (∃ lim x bs, s.phase = .await lim .afterAwait ∧
        Delivers lim (.data (x :: 0x01 :: bs)) s) ∧
      t.seqStep = 0x0B ∧ t.status.outv = true ∧
      t.outLog = s.outLog ++
        [.persist (hexText (windowBytes s 0x260 36) ++ [0x0A] ++ hexText (windowBytes s 0x2A0 36) ++
          [0x0A])]

/-- A fault of CONFIGURE ends the run in the step that raised it: ERR_STEP is SEQ_STEP, the CORE is idle and
takes no further step, and the session stays open (44_sequencer.md R159, R160, 60_exceptions.md R171,
R172). -/
def Obligations.ConfigureFaultsHaltTheRun : Prop :=
  ∀ s t : State, s.opl = 0x50 → s.status.err = false → exec .configure s = .next t →
    t.status.err = true →
    t.errStep = t.seqStep ∧ t.errCode ≠ 0 ∧ t.phase = .idle ∧ t.status.busy = false ∧
      t.status.done = true ∧ t.session = s.session ∧ t.status.opened = s.status.opened ∧
      coreStep t = .next t

/-- A TOKEN that answers every step with success takes CONFIGURE through all eleven steps in eight CORE
steps: the frames and responses in order, the keys, the masks, the digests of the read key, the patched blob, its
CRC and the accumulator, and exactly one output image of two lines (44_sequencer.md R146, R151, R154, R160). -/
def Obligations.ConfigureRunCompletes : Prop :=
  ∀ (s : State) (len : Byte) (serial tail r1 r4 r6 r8 r9 r11 : List Byte) (x1 x4 x6 x8 x9 x11 : Byte)
    (d0 d1 : Draw) (draws : List Draw) (tx : List TxOutcome) (rx : List TokenAnswer),
    let c := s.params.cmd
    let ok := fun (x : Byte) (r : List Byte) => x :: 0x01 :: r
    let r2 := c.getSerial :: len :: (serial ++ tail)
    let wsup := s.keyFlags.getLsbD 0
    let rsup := s.keyFlags.getLsbD 1
    let wkey := if wsup then windowBytes s 0x200 32 else d0.toList
    let rkey := if rsup then windowBytes s 0x220 32 else (if wsup then d0 else d1).toList
    let blob := serial ++ s.params.template.toList.drop len.toNat
    let crc := crc16 blob
    let wmask := deriveMask wkey
    let rmask := deriveMask rkey
    let attkey := windowBytes s 0x240 32
    let sent := fun (f : List Byte) => LinkEvent.tx (zeroPadded f) .sent
    let got := fun (b : List Byte) => LinkEvent.rx (.data b)
    s.phase = .ready .start → s.opl = 0x50 → s.status.opened = true →
    s.attkeyLen = 32 → (wsup = true → s.wkeyLen = 32) → (rsup = true → s.rkeyLen = 32) →
    serial.length = len.toNat → r2.length ≤ 64 →
    r1.length ≤ 62 → r4.length ≤ 62 → r6.length ≤ 62 → r8.length ≤ 62 → r9.length ≤ 62 →
    r11.length ≤ 62 →
    s.env.tx = List.replicate 7 .sent ++ tx → s.env.draws = d0 :: d1 :: draws →
    s.env.rx = [ok x1 r1, r2, ok x4 r4, ok x6 r6, ok x8 r8, ok x9 r9, ok x11 r11].map
        (fun b => TokenAnswer.deliver (.data b)) ++ rx →
    ∃ t, coreRuns 8 s t ∧
      t.status = { s.status with busy := false, done := true, outv := true, tmo := false,
                                 waitin := false } ∧
      t.phase = .idle ∧ t.seqStep = 11 ∧ t.tries = 1 ∧ t.serialLen = len ∧
      t.wkeyLen = 32 ∧ t.rkeyLen = 32 ∧ t.crcOut = crc ∧
      t.crcAcc = blob.foldl crcStep 0x0000 ∧
      windowBytes t 0x2E0 32 = sha256 (rkey ++ kdfSuffix) ∧
      windowBytes t 0x300 32 = sha256 (sha256 (rkey ++ kdfSuffix)) ∧
      windowBytes t 0x180 128 = serial ++ List.replicate (128 - len.toNat) 0x00 ∧
      windowBytes t 0x100 128 = blob ∧ windowBytes t 0x200 32 = wkey ∧ windowBytes t 0x220 32 = rkey ∧
      windowBytes t 0x260 36 = wmask ∧ windowBytes t 0x2A0 36 = rmask ∧
      t.outLog = s.outLog ++ [.persist (hexText wmask ++ [0x0A] ++ hexText rmask ++ [0x0A])] ∧
      t.linkLog = s.linkLog ++
        [sent [0x00, c.isBuild], got (ok x1 r1), sent [0x00, c.getSerial], got r2,
         sent [0x00, c.lock, crc.extractLsb' 8 8, crc.extractLsb' 0 8], got (ok x4 r4),
         sent ([0x00, c.loadTransKey] ++ wkey), got (ok x6 r6),
         sent ([0x00, c.loadWriteKey] ++ wmask), got (ok x8 r8),
         sent ([0x00, c.loadAttestKey] ++ attkey), got (ok x9 r9),
         sent [0x00, c.bootloader], got (ok x11 r11)]

/-! ## The streams and WIPE -/

/-- RNG_STREAM: its start, the request of each turn, and what each outcome does: a valid response is counted
and emitted, every error is a diagnostic, and the loop goes on; where the TOKEN delivers nothing the wait goes on
(45_supplementary.md R162, R163, 43_transport.md R136; that an answer the wait does not admit counts as nothing
delivered is the model's choice, assumption 6). -/
def Obligations.RngStreamTurns : Prop :=
  ∀ s : State,
    (s.phase = .ready .start → s.status.opened = true →
      exec .rngStream s =
        .next { s with rngCount := 0, diagCount := 0, phase := .ready .loopTop }) ∧
    (s.phase = .ready .loopTop → s.cancelReq = false →
      ∃ u, Transmitted (longFrame s s.params.cmd.rng []) (txAnswer s) s u ∧
        (txAnswer s = .sent →
          exec .rngStream s = .next { u with phase := .await .inf .afterAwait }) ∧
        (txAnswer s = .linkError →
          ∃ v, Diagnosed .linkError u v ∧
            exec .rngStream s = .next { v with phase := .ready .loopTop })) ∧
    (∀ o, s.phase = .await .inf .afterAwait → Delivers .inf o s →
      ∃ u, Captured o s u ∧
        (o = .linkError →
          ∃ v, Diagnosed .linkError u v ∧
            exec .rngStream s = .next { v with phase := .ready .loopTop }) ∧
        ∀ b, o = .data b →
          let e := s.params.rngEchoOff.val
          let l := s.params.rngLenOff.val
          let d := s.params.rngDataOff.val
          let valid := b[e]? = some s.params.cmd.rng ∧ b[l]? = some 0x20 ∧ d + 32 ≤ b.length
          (valid → exec .rngStream s =
            .next { u with rngCount := s.rngCount + 32, phase := .ready .loopTop,
                           outLog := s.outLog ++ [.rngData ((b.drop d).take 32)] }) ∧
          (¬ valid → ∃ v, Diagnosed .protocolMismatch u v ∧
            exec .rngStream s = .next { v with phase := .ready .loopTop })) ∧
    (s.phase = .await .inf .afterAwait → NoDelivery .inf s → s.cancelReq = false →
      exec .rngStream s = .next s.dropRx)

/-- SEED_STREAM: its start, its wait for a chunk, the frame of a chunk, the end of input, and what each
outcome does: only an accepted chunk is counted; without a chunk or a delivery the wait goes on
(45_supplementary.md R162, R164, 43_transport.md R136; that an answer the wait does not admit counts as nothing
delivered is the model's choice, assumption 6). -/
def Obligations.SeedStreamTurns : Prop :=
  ∀ s : State,
    (s.phase = .ready .start → s.status.opened = true →
      exec .seedStream s =
        .next { s with seedCount := 0, diagCount := 0, phase := .ready .loopTop }) ∧
    (s.phase = .ready .loopTop → s.cancelReq = false →
      exec .seedStream s =
        .next { s with status := { s.status with waitin := true }, phase := .input .afterInput }) ∧
    (s.phase = .input .afterInput → s.status.waitin = false → s.cancelReq = false →
      (s.chunkN = 0 →
        ∃ t, exec .seedStream s = .next t ∧
          Ended { s with outLog := s.outLog ++ [.seedSummary s.seedCount] } t) ∧
      (s.chunkN ≠ 0 → s.chunk.length = s.chunkN.toNat → s.chunkN.toNat ≤ 20 →
        ∃ u, Transmitted (longFrame s s.params.cmd.seed s.chunk) (txAnswer s) s u ∧
          (txAnswer s = .sent →
            exec .seedStream s = .next { u with phase := .await .inf .afterAwait }) ∧
          (txAnswer s = .linkError →
            ∃ v, Diagnosed .linkError u v ∧
              exec .seedStream s = .next { v with phase := .ready .loopTop }))) ∧
    (∀ o, s.phase = .await .inf .afterAwait → Delivers .inf o s →
      ∃ u, Captured o s u ∧
        (o = .linkError →
          ∃ v, Diagnosed .linkError u v ∧
            exec .seedStream s = .next { v with phase := .ready .loopTop }) ∧
        ∀ b, o = .data b →
          (b[s.params.seedOkOff.val]? = some 0x01 →
            exec .seedStream s =
              .next { u with seedCount := s.seedCount + BitVec.ofNat 32 s.chunkN.toNat,
                             phase := .ready .loopTop }) ∧
          (b[s.params.seedOkOff.val]? ≠ some 0x01 →
            ∃ v, Diagnosed .protocolMismatch u v ∧
              exec .seedStream s = .next { v with phase := .ready .loopTop })) ∧
    (s.phase = .await .inf .afterAwait → NoDelivery .inf s → s.cancelReq = false →
      exec .seedStream s = .next s.dropRx) ∧
    (s.phase = .input .afterInput → s.status.waitin = true → s.cancelReq = false →
      exec .seedStream s = .next s)

/-- A pending cancel ends a stream at its loop's top, in its wait for a response that is not delivered, and in
its wait for a chunk, without a fault and with SEED_STREAM's summary; with a chunk committed too, the
ENVIRONMENT's answer says which comes first (45_supplementary.md R161, 60_exceptions.md R176; that an answer the
wait does not admit counts as nothing delivered is the model's choice, assumption 6). -/
def Obligations.StreamsEndAtACancel : Prop :=
  ∀ s : State, s.cancelReq = true →
    (s.phase = .ready .loopTop →
      (∃ t, exec .rngStream s = .next t ∧ Ended { s with cancelReq := false } t) ∧
      (∃ t, exec .seedStream s = .next t ∧
        Ended { s with cancelReq := false,
                       outLog := s.outLog ++ [.seedSummary s.seedCount] } t)) ∧
    (s.phase = .await .inf .afterAwait → NoDelivery .inf s →
      (∃ t, exec .rngStream s = .next t ∧ Ended { s.dropRx with cancelReq := false } t) ∧
      (∃ t, exec .seedStream s = .next t ∧
        Ended { s.dropRx with cancelReq := false,
                              outLog := s.outLog ++ [.seedSummary s.seedCount] } t)) ∧
    (s.phase = .input .afterInput → s.status.waitin = true →
      ∃ t, exec .seedStream s = .next t ∧
        Ended { s with cancelReq := false,
                       outLog := s.outLog ++ [.seedSummary s.seedCount] } t) ∧
    (s.phase = .input .afterInput → s.status.waitin = false →
      (orderAnswer s = true →
        ∃ t, exec .seedStream s = .next t ∧
          Ended { s.dropOrder with cancelReq := false,
                                   outLog := s.outLog ++ [.seedSummary s.seedCount] } t) ∧
      (orderAnswer s = false → s.chunkN = 0 →
        ∃ t, exec .seedStream s = .next t ∧
          Ended { s.dropOrder with outLog := s.outLog ++ [.seedSummary s.seedCount] } t) ∧
      (orderAnswer s = false → s.chunkN ≠ 0 → s.chunk.length = s.chunkN.toNat →
        s.chunkN.toNat ≤ 20 →
        ∃ u, Transmitted (longFrame s s.params.cmd.seed s.chunk) (txAnswer s.dropOrder) s.dropOrder u ∧
          (txAnswer s.dropOrder = .sent →
            exec .seedStream s = .next { u with phase := .await .inf .afterAwait }) ∧
          (txAnswer s.dropOrder = .linkError →
            ∃ v, Diagnosed .linkError u v ∧
              exec .seedStream s = .next { v with phase := .ready .loopTop })))

/-- WIPE: it faults without a session; one frame, then waits of 10000 ms each counted in TRIES up to 255; a
timeout waits on, a link error faults, and a response ends it with RESULT from the success byte; a TOKEN that
delivers nothing keeps it waiting, a pending cancel or not (45_supplementary.md R166, 70_reset_and_hazards.md
R195). That a wait in which nothing is delivered records its timeout in that very CORE step is the model's choice
(assumption 6): R197 says only that it eventually receives an outcome, at worst a timeout. -/
def Obligations.WipeWaitsForAResponse : Prop :=
  ∀ s : State,
    (s.phase = .ready .start → s.status.opened = false →
      ∃ t, exec .wipe s = .next t ∧ Faulted .noSession s t) ∧
    (s.phase = .ready .start → s.status.opened = true →
      ∃ u, Transmitted (longFrame s s.params.cmd.wipe []) (txAnswer s) s u ∧
        (txAnswer s = .sent →
          exec .wipe s =
            .next { u with att := BitVec.ofNat 8 (min (s.att.toNat + 1) 255), tries := 1,
                           phase := .await .wipe .afterAwait }) ∧
        (txAnswer s = .linkError → ∃ t, exec .wipe s = .next t ∧ Faulted .linkError u t)) ∧
    (∀ o, s.phase = .await .wipe .afterAwait → Delivers .wipe o s →
      ∃ u, Captured o s u ∧
        (o = .timeout →
          exec .wipe s =
            .next { u with att := BitVec.ofNat 8 (min (s.att.toNat + 1) 255),
                           tries := BitVec.ofNat 8 (min (s.tries.toNat + 1) 255),
                           phase := .await .wipe .afterAwait }) ∧
        (o = .linkError → ∃ t, exec .wipe s = .next t ∧ Faulted .linkError u t) ∧
        ∀ b, o = .data b →
          ∃ t, exec .wipe s = .next t ∧
            Ended { u with result := if b[s.params.wipeOkOff.val]? = some 0x01 then 0x01 else 0x00 } t) ∧
    (s.phase = .await .wipe .afterAwait → NoDelivery .wipe s →
      ∃ t, exec .wipe s = .next t ∧ t.phase = .await .wipe .afterAwait ∧
        t.linkLog = s.linkLog ++ [.rx .timeout] ∧ t.status = { s.status with tmo := true } ∧
        t.cancelReq = s.cancelReq)

/-! ## Rules of the whole machine -/

/-- No operation writes an argument register, a key flag, a filter, or the buffers PAYLOAD, ATTKEY,
SEED_CHUNK and FILTER, nor the latch (10_state.md R41, R45, R48, R52). -/
def Obligations.HostRegistersAreTheHosts : Prop :=
  ∀ (i : Instr) (s t : State), exec i s = .next t →
    KeepsLatch s t ∧
      ∀ off : Offset,
        inRanges [(0x000, 4), (0x00D, 1), (0x010, 2), (0x0C0, 64), (0x240, 32), (0x320, 20), (0x340, 64)]
          off.toNat = true → t.readByte off = s.readByte off

/-- No operation but OPEN and CLOSE opens or ends a session (43_transport.md R138). -/
def Obligations.SessionOnlyByOpenAndClose : Prop :=
  ∀ (i : Instr) (s t : State), exec i s = .next t → i ≠ .openDev → i ≠ .closeDev →
    t.session = s.session ∧ t.status.opened = s.status.opened

/-- Whatever step sets ERR has ended the operation, with one of the codes of R170, and the latch and the
session as they were (60_exceptions.md R170, R171). -/
def Obligations.ErrMeansAnEndedOperation : Prop :=
  ∀ s t : State, step s = .next t → s.status.err = false → t.status.err = true →
    t.phase = .idle ∧ t.att = 0 ∧ t.status.busy = false ∧ t.status.done = true ∧
      t.status.waitin = false ∧
      t.errCode ∈ [0x01, 0x02, 0x03, 0x04, 0x05, 0x06, 0x07, 0x08, 0x10, 0x11, 0x12, 0x13, 0x14] ∧
      KeepsLatch { s with sched := t.sched } t ∧ t.session = s.session

/-- The two logs only grow, but for a reset (10_state.md R56, R57). -/
def Obligations.LogsOnlyGrow : Prop :=
  ∀ s t : State, step s = .next t → s.sched.head? ≠ some .reset →
    s.outLog <+: t.outLog ∧ s.linkLog <+: t.linkLog

/-- Every step keeps the buffers in canonical form and inside their offsets (10_state.md R51). -/
def Obligations.EveryStepKeepsTheMemory : Prop :=
  ∀ s t : State, MemoryInv s → step s = .next t → MemoryInv t

/-- Every step keeps the relations among STATUS, PH, the latch and the session (10_state.md R18, R53,
R55). -/
def Obligations.EveryStepKeepsTheFlow : Prop :=
  ∀ s t : State, FlowInv s → step s = .next t → FlowInv t

/-- Every step keeps the ranges of the registers and the lengths of chunks, frames, responses and events
(10_state.md R21, R24, R25, R27, R31, R54, R56, 20_memory.md R76). -/
def Obligations.EveryStepKeepsTheRanges : Prop :=
  ∀ s t : State, ValuesInv s → step s = .next t → ValuesInv t

/-- The state after reset meets the invariants. -/
def Obligations.ResetMeetsTheInvariants : Prop :=
  MemoryInv State.reset ∧ FlowInv State.reset ∧ ValuesInv State.reset

/-- Where the TOKEN delivers nothing a finite wait of RECV, RECV_RETRY, CONFIGURE or WIPE times out, a pending
cancel or not; and in any interleaving without a reset a finite wait receives an outcome, once at most every move
already listed has been taken and the CORE has its turn (70_reset_and_hazards.md R197, 43_transport.md R136,
40_control.md R111). That the timeout comes in that very CORE step, and the bound, which is the schedule's, are the
model's choice (assumptions 3 and 6). -/
def Obligations.FiniteWaitsReceiveAnOutcome : Prop :=
  (∀ (s : State) (i : Instr) (lim : Timeout),
    ((∃ a, i = .recv a) ∧ lim ≠ .inf) ∨ ((∃ n, i = .recvRetry n) ∧ lim = .cfg) ∨
      (i = .configure ∧ lim = .cfg ∧ s.seqStep ∈ awaitingSteps) ∨ (i = .wipe ∧ lim = .wipe) →
    s.phase = .await lim .afterAwait → NoDelivery lim s →
    ∃ t, exec i s = .next t ∧ s.linkLog ++ [.rx .timeout] <+: t.linkLog ∧ t.result = 0x00 ∧
      t.status.tmo = true ∧ t.cancelReq = s.cancelReq) ∧
  ∀ (s : State) (lim : Timeout) (pos : Pos), FlowInv s →
    (∀ m ∈ s.sched, moveIsAccess m = true ∧ m ≠ .reset) →
    s.phase = .await lim pos → lim ≠ .inf →
    ∃ k t o, k ≤ s.sched.length + 1 ∧ stepRuns k s t ∧ enabledAt lim o = true ∧
      s.linkLog ++ [.rx o] <+: t.linkLog

/-- No run stops: in a state of the invariant, with accesses of one byte only, the machine has a next state
and stays so. -/
def Obligations.RunsNeverStop : Prop :=
  ∀ s : State, FlowInv s → (∀ m ∈ s.sched, moveIsAccess m = true) →
    ∃ t, step s = .next t ∧ FlowInv t ∧ ∀ m ∈ t.sched, moveIsAccess m = true

end
end

