-- ==== Sys2Proof/Laws/Memory.lean ====
section
/-! SUPPORT. The laws of the buffers' memory: a read after a write, the canonical form, and the reads of a
run of bytes. The reads need no hypothesis on the list, so they hold in every state. -/

namespace Sys2Proof.Machine

@[simp] theorem Memory.read_nil (a : Nat) : Memory.read [] a = Memory.unlisted := rfl

theorem Memory.read_entry (a : Nat) (v : Byte) (x : Nat) :
    Memory.read (Memory.entry a v) x = if x = a then v else Memory.unlisted := by
  unfold Memory.entry
  split
  · next h => simp [h]
  · simp [Memory.read]

theorem Memory.read_entry_append (a : Nat) (v : Byte) (r : List Host.Cell) (x : Nat)
    (h : ∀ c ∈ r, c.1 ≠ a) :
    Memory.read (Memory.entry a v ++ r) x = if x = a then v else Memory.read r x := by
  unfold Memory.entry
  split
  · next hv =>
    simp only [List.nil_append]
    split
    · next hx =>
      subst hx
      rw [hv]
      induction r with
      | nil => rfl
      | cons c r ih =>
        have hc := h c (by simp)
        simp only [Memory.read]
        rw [if_neg (fun e => hc e.symm)]
        exact ih fun d hd => h d (by simp [hd])
    · rfl
  · simp [Memory.read]

theorem Memory.read_filter (m : List Host.Cell) (a x : Nat) (h : x ≠ a) :
    Memory.read (m.filter fun c => decide (c.1 ≠ a)) x = Memory.read m x := by
  induction m with
  | nil => rfl
  | cons c r ih =>
    by_cases hc : c.1 = a
    · have hx : ¬ x = c.1 := fun e => h (e.trans hc)
      simp [List.filter, hc, Memory.read, h]
      simpa using ih
    · rw [List.filter_cons_of_pos (by simpa using hc)]
      simp only [Memory.read, ih]

/-- A read after a write of one byte (20_memory.md R70). -/
theorem Memory.read_write (m : List Host.Cell) (a : Nat) (v : Byte) (x : Nat) :
    Memory.read (Memory.write m a v) x = if x = a then v else Memory.read m x := by
  induction m with
  | nil => simp [Memory.write, Memory.read_entry]
  | cons c r ih =>
    obtain ⟨b, w⟩ := c
    simp only [Memory.write]
    split
    · next hb =>
      simp only [Memory.read, ih]
      by_cases hx : x = b
      · have : x ≠ a := by omega
        simp [hx, show b ≠ a by omega]
      · simp [hx]
    · rw [Memory.read_entry_append _ _ _ _ (by simp)]
      split
      · rfl
      · next hx => exact Memory.read_filter _ _ _ hx

@[simp] theorem Memory.read_write_same (m : List Host.Cell) (a : Nat) (v : Byte) :
    Memory.read (Memory.write m a v) a = v := by simp [Memory.read_write]

theorem Memory.read_write_other (m : List Host.Cell) {a x : Nat} (v : Byte) (h : x ≠ a) :
    Memory.read (Memory.write m a v) x = Memory.read m x := by simp [Memory.read_write, h]

/-- A read after a write of a run of bytes: the byte written where the address lies in the run, the byte
before elsewhere. -/
theorem Memory.read_writeBytes (m : List Host.Cell) (base : Nat) (bs : List Byte) (x : Nat) :
    Memory.read (Memory.writeBytes m base bs) x =
      if base ≤ x ∧ x < base + bs.length then bs.getD (x - base) 0 else Memory.read m x := by
  induction bs generalizing m base with
  | nil => simp [Memory.writeBytes, show ¬ (base ≤ x ∧ x < base) by omega]
  | cons b bs ih =>
    simp only [Memory.writeBytes, ih, Memory.read_write, List.length_cons]
    by_cases h1 : base + 1 ≤ x ∧ x < base + 1 + bs.length
    · rw [if_pos h1, if_pos (by omega)]
      obtain ⟨k, hk⟩ : ∃ k, x - base = k + 1 := ⟨x - base - 1, by omega⟩
      rw [hk, List.getD_cons_succ, show x - (base + 1) = k by omega]
    · rw [if_neg h1]
      by_cases h2 : x = base
      · subst h2; simp
      · rw [if_neg h2, if_neg (by omega)]

theorem Memory.read_writeBytes_out (m : List Host.Cell) {base x : Nat} (bs : List Byte)
    (h : x < base ∨ base + bs.length ≤ x) :
    Memory.read (Memory.writeBytes m base bs) x = Memory.read m x := by
  rw [Memory.read_writeBytes, if_neg (by omega)]

@[simp] theorem Memory.readBytes_length (m : List Host.Cell) (base n : Nat) :
    (Memory.readBytes m base n).length = n := by simp [Memory.readBytes]

/-- A run of bytes reads back what was written there. -/
theorem Memory.readBytes_writeBytes (m : List Host.Cell) (base : Nat) (bs : List Byte) :
    Memory.readBytes (Memory.writeBytes m base bs) base bs.length = bs := by
  apply List.ext_getElem
  · simp
  · intro i h1 h2
    simp only [Memory.readBytes, List.getElem_map, List.getElem_range, Memory.read_writeBytes]
    rw [if_pos (by omega)]
    simp [h2]

/-- A run of bytes that lies outside the bytes written reads as before. -/
theorem Memory.readBytes_writeBytes_out (m : List Host.Cell) (base : Nat) (bs : List Byte) (b n : Nat)
    (h : b + n ≤ base ∨ base + bs.length ≤ b) :
    Memory.readBytes (Memory.writeBytes m base bs) b n = Memory.readBytes m b n := by
  unfold Memory.readBytes
  apply List.map_congr_left
  intro i hi
  have := List.mem_range.mp hi
  exact Memory.read_writeBytes_out m bs (by omega)

/-! ## The canonical form -/

/-- The canonical form said without the list's shape: addresses strictly rising, no entry unlisted. -/
theorem Memory.wf_iff (m : List Host.Cell) :
    Memory.wf m = true ↔
      m.Pairwise (fun c d => c.1 < d.1) ∧ ∀ c ∈ m, c.2 ≠ Memory.unlisted := by
  induction m with
  | nil => simp [Memory.wf]
  | cons c r ih =>
    obtain ⟨a, v⟩ := c
    cases r with
    | nil => simp [Memory.wf]
    | cons d r =>
      obtain ⟨b, w⟩ := d
      simp only [Memory.wf, Bool.and_eq_true, decide_eq_true_eq, ih]
      constructor
      · rintro ⟨⟨hv, hab⟩, hp, hall⟩
        refine ⟨List.pairwise_cons.mpr ⟨?_, hp⟩, ?_⟩
        · intro e he
          rcases List.mem_cons.mp he with rfl | he'
          · exact hab
          · exact Nat.lt_trans hab ((List.pairwise_cons.mp hp).1 e he')
        · intro e he
          rcases List.mem_cons.mp he with rfl | he'
          · exact hv
          · exact hall e he'
      · rintro ⟨hp, hall⟩
        obtain ⟨h1, h2⟩ := List.pairwise_cons.mp hp
        exact ⟨⟨hall (a, v) (by simp), h1 (b, w) (by simp)⟩, h2, fun e he => hall e (by simp [he])⟩

theorem Memory.mem_write {m : List Host.Cell} {a : Nat} {v : Byte} {c : Host.Cell}
    (h : c ∈ Memory.write m a v) : c = (a, v) ∧ v ≠ Memory.unlisted ∨ c ∈ m ∧ c.1 ≠ a := by
  induction m with
  | nil =>
    simp only [Memory.write, Memory.entry] at h
    split at h
    · simp at h
    · next hv => exact .inl ⟨by simpa using h, hv⟩
  | cons d r ih =>
    obtain ⟨b, w⟩ := d
    simp only [Memory.write] at h
    split at h
    · next hb =>
      rcases List.mem_cons.mp h with rfl | h'
      · exact .inr ⟨by simp, by simp; omega⟩
      · rcases ih h' with h1 | ⟨h1, h2⟩
        · exact .inl h1
        · exact .inr ⟨by simp [h1], h2⟩
    · rcases List.mem_append.mp h with h' | h'
      · unfold Memory.entry at h'
        split at h'
        · simp at h'
        · next hv => exact .inl ⟨by simpa using h', hv⟩
      · rw [List.mem_filter] at h'
        exact .inr ⟨h'.1, by simpa using h'.2⟩

/-- Writing a byte keeps the canonical form. -/
theorem Memory.wf_write {m : List Host.Cell} (h : Memory.wf m = true) (a : Nat) (v : Byte) :
    Memory.wf (Memory.write m a v) = true := by
  rw [Memory.wf_iff] at h ⊢
  obtain ⟨hp, hv⟩ := h
  refine ⟨?_, ?_⟩
  · clear hv
    induction m with
    | nil =>
      simp only [Memory.write, Memory.entry]
      split <;> simp
    | cons d r ih =>
      obtain ⟨b, w⟩ := d
      obtain ⟨h1, h2⟩ := List.pairwise_cons.mp hp
      simp only [Memory.write]
      split
      · next hb =>
        refine List.pairwise_cons.mpr ⟨?_, ih h2⟩
        intro c hc
        rcases Memory.mem_write hc with ⟨rfl, -⟩ | ⟨hc', -⟩
        · exact hb
        · exact h1 c hc'
      · next hb =>
        have hrest : (((b, w) :: r).filter fun c => decide (c.1 ≠ a)).Pairwise
            (fun c d => c.1 < d.1) := hp.filter _
        unfold Memory.entry
        split
        · simpa using hrest
        · refine List.pairwise_cons.mpr ⟨?_, hrest⟩
          intro c hc
          have hc : c ∈ ((b, w) :: r).filter fun c => decide (c.1 ≠ a) := hc
          rw [List.mem_filter] at hc
          obtain ⟨hc1, hc2⟩ := hc
          have hne : c.1 ≠ a := by simpa using hc2
          have hge : b ≤ c.1 := by
            rcases List.mem_cons.mp hc1 with rfl | hc'
            · exact Nat.le_refl _
            · exact Nat.le_of_lt (h1 c hc')
          simp only
          omega
  · intro c hc
    rcases Memory.mem_write hc with ⟨rfl, hv'⟩ | ⟨hc', -⟩
    · exact hv'
    · exact hv c hc'

/-- Writing a run of bytes keeps the canonical form. -/
theorem Memory.wf_writeBytes {m : List Host.Cell} (h : Memory.wf m = true) (base : Nat)
    (bs : List Byte) : Memory.wf (Memory.writeBytes m base bs) = true := by
  induction bs generalizing m base with
  | nil => exact h
  | cons b bs ih => exact ih (Memory.wf_write h base b) (base + 1)

/-- An entry after a run of bytes is written lies in the run, or was there before. -/
theorem Memory.mem_writeBytes {m : List Host.Cell} {base : Nat} {bs : List Byte} {c : Host.Cell}
    (h : c ∈ Memory.writeBytes m base bs) :
    (base ≤ c.1 ∧ c.1 < base + bs.length) ∨ c ∈ m := by
  induction bs generalizing m base with
  | nil => exact .inr h
  | cons b bs ih =>
    simp only [List.length_cons]
    rcases ih h with h1 | h1
    · exact .inl (by omega)
    · rcases Memory.mem_write h1 with ⟨rfl, -⟩ | ⟨h2, -⟩
      · exact .inl (by simp)
      · exact .inr h2

/-! ## Equal memories are equal lists -/

/-- A canonical list reads the value of each of its entries. -/
theorem Memory.read_of_mem {m : List Host.Cell} (h : Memory.wf m = true) {c : Host.Cell} (hc : c ∈ m) :
    Memory.read m c.1 = c.2 := by
  rw [Memory.wf_iff] at h
  obtain ⟨hp, -⟩ := h
  induction m with
  | nil => simp at hc
  | cons d r ih =>
    obtain ⟨b, w⟩ := d
    obtain ⟨h1, h2⟩ := List.pairwise_cons.mp hp
    rcases List.mem_cons.mp hc with rfl | hc'
    · simp [Memory.read]
    · have : c.1 ≠ b := by have := h1 c hc'; simp only at this; omega
      simp only [Memory.read, if_neg this]
      exact ih hc' h2

end Sys2Proof.Machine
end

