-- ==== Sys2Proof/Laws/State.lean ====
section
/-! SUPPORT. One lemma per field per update of State, each true by rfl and tagged for simp, so that no
proof unfolds a record update. `(rfl)` in parentheses makes simp rewrite with the lemma: without them it would
leave the equality of two whole states to the kernel, which then unfolds what the fields hold. -/

namespace Sys2Proof.Machine

/-! ## setOvr -/

@[simp] theorem State.setOvr_opc (s : State) : (s.setOvr).opc = s.opc := (rfl)
@[simp] theorem State.setOvr_argA (s : State) : (s.setOvr).argA = s.argA := (rfl)
@[simp] theorem State.setOvr_argB (s : State) : (s.setOvr).argB = s.argB := (rfl)
@[simp] theorem State.setOvr_argC (s : State) : (s.setOvr).argC = s.argC := (rfl)
@[simp] theorem State.setOvr_status (s : State) : (s.setOvr).status = { s.status with ovr := true } := (rfl)
@[simp] theorem State.setOvr_errCode (s : State) : (s.setOvr).errCode = s.errCode := (rfl)
@[simp] theorem State.setOvr_errStep (s : State) : (s.setOvr).errStep = s.errStep := (rfl)
@[simp] theorem State.setOvr_seqStep (s : State) : (s.setOvr).seqStep = s.seqStep := (rfl)
@[simp] theorem State.setOvr_tries (s : State) : (s.setOvr).tries = s.tries := (rfl)
@[simp] theorem State.setOvr_rxLen (s : State) : (s.setOvr).rxLen = s.rxLen := (rfl)
@[simp] theorem State.setOvr_txLen (s : State) : (s.setOvr).txLen = s.txLen := (rfl)
@[simp] theorem State.setOvr_serialLen (s : State) : (s.setOvr).serialLen = s.serialLen := (rfl)
@[simp] theorem State.setOvr_keyFlags (s : State) : (s.setOvr).keyFlags = s.keyFlags := (rfl)
@[simp] theorem State.setOvr_wkeyLen (s : State) : (s.setOvr).wkeyLen = s.wkeyLen := (rfl)
@[simp] theorem State.setOvr_rkeyLen (s : State) : (s.setOvr).rkeyLen = s.rkeyLen := (rfl)
@[simp] theorem State.setOvr_attkeyLen (s : State) : (s.setOvr).attkeyLen = s.attkeyLen := (rfl)
@[simp] theorem State.setOvr_filterLen (s : State) : (s.setOvr).filterLen = s.filterLen := (rfl)
@[simp] theorem State.setOvr_result (s : State) : (s.setOvr).result = s.result := (rfl)
@[simp] theorem State.setOvr_crcAcc (s : State) : (s.setOvr).crcAcc = s.crcAcc := (rfl)
@[simp] theorem State.setOvr_crcOut (s : State) : (s.setOvr).crcOut = s.crcOut := (rfl)
@[simp] theorem State.setOvr_seedCount (s : State) : (s.setOvr).seedCount = s.seedCount := (rfl)
@[simp] theorem State.setOvr_rngCount (s : State) : (s.setOvr).rngCount = s.rngCount := (rfl)
@[simp] theorem State.setOvr_diagCount (s : State) : (s.setOvr).diagCount = s.diagCount := (rfl)
@[simp] theorem State.setOvr_lastDiag (s : State) : (s.setOvr).lastDiag = s.lastDiag := (rfl)
@[simp] theorem State.setOvr_mem (s : State) : (s.setOvr).mem = s.mem := (rfl)
@[simp] theorem State.setOvr_opl (s : State) : (s.setOvr).opl = s.opl := (rfl)
@[simp] theorem State.setOvr_al (s : State) : (s.setOvr).al = s.al := (rfl)
@[simp] theorem State.setOvr_bl (s : State) : (s.setOvr).bl = s.bl := (rfl)
@[simp] theorem State.setOvr_cl (s : State) : (s.setOvr).cl = s.cl := (rfl)
@[simp] theorem State.setOvr_phase (s : State) : (s.setOvr).phase = s.phase := (rfl)
@[simp] theorem State.setOvr_att (s : State) : (s.setOvr).att = s.att := (rfl)
@[simp] theorem State.setOvr_cancelReq (s : State) : (s.setOvr).cancelReq = s.cancelReq := (rfl)
@[simp] theorem State.setOvr_chunk (s : State) : (s.setOvr).chunk = s.chunk := (rfl)
@[simp] theorem State.setOvr_chunkN (s : State) : (s.setOvr).chunkN = s.chunkN := (rfl)
@[simp] theorem State.setOvr_session (s : State) : (s.setOvr).session = s.session := (rfl)
@[simp] theorem State.setOvr_outLog (s : State) : (s.setOvr).outLog = s.outLog := (rfl)
@[simp] theorem State.setOvr_linkLog (s : State) : (s.setOvr).linkLog = s.linkLog := (rfl)
@[simp] theorem State.setOvr_params (s : State) : (s.setOvr).params = s.params := (rfl)
@[simp] theorem State.setOvr_env (s : State) : (s.setOvr).env = s.env := (rfl)
@[simp] theorem State.setOvr_freeCount (s : State) : (s.setOvr).freeCount = s.freeCount := (rfl)
@[simp] theorem State.setOvr_sched (s : State) : (s.setOvr).sched = s.sched := (rfl)
@[simp] theorem State.setOvr_rdata (s : State) : (s.setOvr).rdata = s.rdata := (rfl)

/-! ## setWaitin -/

@[simp] theorem State.setWaitin_opc (s : State) : (s.setWaitin).opc = s.opc := (rfl)
@[simp] theorem State.setWaitin_argA (s : State) : (s.setWaitin).argA = s.argA := (rfl)
@[simp] theorem State.setWaitin_argB (s : State) : (s.setWaitin).argB = s.argB := (rfl)
@[simp] theorem State.setWaitin_argC (s : State) : (s.setWaitin).argC = s.argC := (rfl)
@[simp] theorem State.setWaitin_status (s : State) :
    (s.setWaitin).status = { s.status with waitin := true } := (rfl)
@[simp] theorem State.setWaitin_errCode (s : State) : (s.setWaitin).errCode = s.errCode := (rfl)
@[simp] theorem State.setWaitin_errStep (s : State) : (s.setWaitin).errStep = s.errStep := (rfl)
@[simp] theorem State.setWaitin_seqStep (s : State) : (s.setWaitin).seqStep = s.seqStep := (rfl)
@[simp] theorem State.setWaitin_tries (s : State) : (s.setWaitin).tries = s.tries := (rfl)
@[simp] theorem State.setWaitin_rxLen (s : State) : (s.setWaitin).rxLen = s.rxLen := (rfl)
@[simp] theorem State.setWaitin_txLen (s : State) : (s.setWaitin).txLen = s.txLen := (rfl)
@[simp] theorem State.setWaitin_serialLen (s : State) : (s.setWaitin).serialLen = s.serialLen := (rfl)
@[simp] theorem State.setWaitin_keyFlags (s : State) : (s.setWaitin).keyFlags = s.keyFlags := (rfl)
@[simp] theorem State.setWaitin_wkeyLen (s : State) : (s.setWaitin).wkeyLen = s.wkeyLen := (rfl)
@[simp] theorem State.setWaitin_rkeyLen (s : State) : (s.setWaitin).rkeyLen = s.rkeyLen := (rfl)
@[simp] theorem State.setWaitin_attkeyLen (s : State) : (s.setWaitin).attkeyLen = s.attkeyLen := (rfl)
@[simp] theorem State.setWaitin_filterLen (s : State) : (s.setWaitin).filterLen = s.filterLen := (rfl)
@[simp] theorem State.setWaitin_result (s : State) : (s.setWaitin).result = s.result := (rfl)
@[simp] theorem State.setWaitin_crcAcc (s : State) : (s.setWaitin).crcAcc = s.crcAcc := (rfl)
@[simp] theorem State.setWaitin_crcOut (s : State) : (s.setWaitin).crcOut = s.crcOut := (rfl)
@[simp] theorem State.setWaitin_seedCount (s : State) : (s.setWaitin).seedCount = s.seedCount := (rfl)
@[simp] theorem State.setWaitin_rngCount (s : State) : (s.setWaitin).rngCount = s.rngCount := (rfl)
@[simp] theorem State.setWaitin_diagCount (s : State) : (s.setWaitin).diagCount = s.diagCount := (rfl)
@[simp] theorem State.setWaitin_lastDiag (s : State) : (s.setWaitin).lastDiag = s.lastDiag := (rfl)
@[simp] theorem State.setWaitin_mem (s : State) : (s.setWaitin).mem = s.mem := (rfl)
@[simp] theorem State.setWaitin_opl (s : State) : (s.setWaitin).opl = s.opl := (rfl)
@[simp] theorem State.setWaitin_al (s : State) : (s.setWaitin).al = s.al := (rfl)
@[simp] theorem State.setWaitin_bl (s : State) : (s.setWaitin).bl = s.bl := (rfl)
@[simp] theorem State.setWaitin_cl (s : State) : (s.setWaitin).cl = s.cl := (rfl)
@[simp] theorem State.setWaitin_phase (s : State) : (s.setWaitin).phase = s.phase := (rfl)
@[simp] theorem State.setWaitin_att (s : State) : (s.setWaitin).att = s.att := (rfl)
@[simp] theorem State.setWaitin_cancelReq (s : State) : (s.setWaitin).cancelReq = s.cancelReq := (rfl)
@[simp] theorem State.setWaitin_chunk (s : State) : (s.setWaitin).chunk = s.chunk := (rfl)
@[simp] theorem State.setWaitin_chunkN (s : State) : (s.setWaitin).chunkN = s.chunkN := (rfl)
@[simp] theorem State.setWaitin_session (s : State) : (s.setWaitin).session = s.session := (rfl)
@[simp] theorem State.setWaitin_outLog (s : State) : (s.setWaitin).outLog = s.outLog := (rfl)
@[simp] theorem State.setWaitin_linkLog (s : State) : (s.setWaitin).linkLog = s.linkLog := (rfl)
@[simp] theorem State.setWaitin_params (s : State) : (s.setWaitin).params = s.params := (rfl)
@[simp] theorem State.setWaitin_env (s : State) : (s.setWaitin).env = s.env := (rfl)
@[simp] theorem State.setWaitin_freeCount (s : State) : (s.setWaitin).freeCount = s.freeCount := (rfl)
@[simp] theorem State.setWaitin_sched (s : State) : (s.setWaitin).sched = s.sched := (rfl)
@[simp] theorem State.setWaitin_rdata (s : State) : (s.setWaitin).rdata = s.rdata := (rfl)

/-! ## setOutv -/

@[simp] theorem State.setOutv_opc (s : State) : (s.setOutv).opc = s.opc := (rfl)
@[simp] theorem State.setOutv_argA (s : State) : (s.setOutv).argA = s.argA := (rfl)
@[simp] theorem State.setOutv_argB (s : State) : (s.setOutv).argB = s.argB := (rfl)
@[simp] theorem State.setOutv_argC (s : State) : (s.setOutv).argC = s.argC := (rfl)
@[simp] theorem State.setOutv_status (s : State) :
    (s.setOutv).status = { s.status with outv := true } := (rfl)
@[simp] theorem State.setOutv_errCode (s : State) : (s.setOutv).errCode = s.errCode := (rfl)
@[simp] theorem State.setOutv_errStep (s : State) : (s.setOutv).errStep = s.errStep := (rfl)
@[simp] theorem State.setOutv_seqStep (s : State) : (s.setOutv).seqStep = s.seqStep := (rfl)
@[simp] theorem State.setOutv_tries (s : State) : (s.setOutv).tries = s.tries := (rfl)
@[simp] theorem State.setOutv_rxLen (s : State) : (s.setOutv).rxLen = s.rxLen := (rfl)
@[simp] theorem State.setOutv_txLen (s : State) : (s.setOutv).txLen = s.txLen := (rfl)
@[simp] theorem State.setOutv_serialLen (s : State) : (s.setOutv).serialLen = s.serialLen := (rfl)
@[simp] theorem State.setOutv_keyFlags (s : State) : (s.setOutv).keyFlags = s.keyFlags := (rfl)
@[simp] theorem State.setOutv_wkeyLen (s : State) : (s.setOutv).wkeyLen = s.wkeyLen := (rfl)
@[simp] theorem State.setOutv_rkeyLen (s : State) : (s.setOutv).rkeyLen = s.rkeyLen := (rfl)
@[simp] theorem State.setOutv_attkeyLen (s : State) : (s.setOutv).attkeyLen = s.attkeyLen := (rfl)
@[simp] theorem State.setOutv_filterLen (s : State) : (s.setOutv).filterLen = s.filterLen := (rfl)
@[simp] theorem State.setOutv_result (s : State) : (s.setOutv).result = s.result := (rfl)
@[simp] theorem State.setOutv_crcAcc (s : State) : (s.setOutv).crcAcc = s.crcAcc := (rfl)
@[simp] theorem State.setOutv_crcOut (s : State) : (s.setOutv).crcOut = s.crcOut := (rfl)
@[simp] theorem State.setOutv_seedCount (s : State) : (s.setOutv).seedCount = s.seedCount := (rfl)
@[simp] theorem State.setOutv_rngCount (s : State) : (s.setOutv).rngCount = s.rngCount := (rfl)
@[simp] theorem State.setOutv_diagCount (s : State) : (s.setOutv).diagCount = s.diagCount := (rfl)
@[simp] theorem State.setOutv_lastDiag (s : State) : (s.setOutv).lastDiag = s.lastDiag := (rfl)
@[simp] theorem State.setOutv_mem (s : State) : (s.setOutv).mem = s.mem := (rfl)
@[simp] theorem State.setOutv_opl (s : State) : (s.setOutv).opl = s.opl := (rfl)
@[simp] theorem State.setOutv_al (s : State) : (s.setOutv).al = s.al := (rfl)
@[simp] theorem State.setOutv_bl (s : State) : (s.setOutv).bl = s.bl := (rfl)
@[simp] theorem State.setOutv_cl (s : State) : (s.setOutv).cl = s.cl := (rfl)
@[simp] theorem State.setOutv_phase (s : State) : (s.setOutv).phase = s.phase := (rfl)
@[simp] theorem State.setOutv_att (s : State) : (s.setOutv).att = s.att := (rfl)
@[simp] theorem State.setOutv_cancelReq (s : State) : (s.setOutv).cancelReq = s.cancelReq := (rfl)
@[simp] theorem State.setOutv_chunk (s : State) : (s.setOutv).chunk = s.chunk := (rfl)
@[simp] theorem State.setOutv_chunkN (s : State) : (s.setOutv).chunkN = s.chunkN := (rfl)
@[simp] theorem State.setOutv_session (s : State) : (s.setOutv).session = s.session := (rfl)
@[simp] theorem State.setOutv_outLog (s : State) : (s.setOutv).outLog = s.outLog := (rfl)
@[simp] theorem State.setOutv_linkLog (s : State) : (s.setOutv).linkLog = s.linkLog := (rfl)
@[simp] theorem State.setOutv_params (s : State) : (s.setOutv).params = s.params := (rfl)
@[simp] theorem State.setOutv_env (s : State) : (s.setOutv).env = s.env := (rfl)
@[simp] theorem State.setOutv_freeCount (s : State) : (s.setOutv).freeCount = s.freeCount := (rfl)
@[simp] theorem State.setOutv_sched (s : State) : (s.setOutv).sched = s.sched := (rfl)
@[simp] theorem State.setOutv_rdata (s : State) : (s.setOutv).rdata = s.rdata := (rfl)

/-! ## setBuf -/

@[simp] theorem State.setBuf_opc (base : Nat) (bs : List Byte) (s : State) :
    (s.setBuf base bs).opc = s.opc := (rfl)
@[simp] theorem State.setBuf_argA (base : Nat) (bs : List Byte) (s : State) :
    (s.setBuf base bs).argA = s.argA := (rfl)
@[simp] theorem State.setBuf_argB (base : Nat) (bs : List Byte) (s : State) :
    (s.setBuf base bs).argB = s.argB := (rfl)
@[simp] theorem State.setBuf_argC (base : Nat) (bs : List Byte) (s : State) :
    (s.setBuf base bs).argC = s.argC := (rfl)
@[simp] theorem State.setBuf_status (base : Nat) (bs : List Byte) (s : State) :
    (s.setBuf base bs).status = s.status := (rfl)
@[simp] theorem State.setBuf_errCode (base : Nat) (bs : List Byte) (s : State) :
    (s.setBuf base bs).errCode = s.errCode := (rfl)
@[simp] theorem State.setBuf_errStep (base : Nat) (bs : List Byte) (s : State) :
    (s.setBuf base bs).errStep = s.errStep := (rfl)
@[simp] theorem State.setBuf_seqStep (base : Nat) (bs : List Byte) (s : State) :
    (s.setBuf base bs).seqStep = s.seqStep := (rfl)
@[simp] theorem State.setBuf_tries (base : Nat) (bs : List Byte) (s : State) :
    (s.setBuf base bs).tries = s.tries := (rfl)
@[simp] theorem State.setBuf_rxLen (base : Nat) (bs : List Byte) (s : State) :
    (s.setBuf base bs).rxLen = s.rxLen := (rfl)
@[simp] theorem State.setBuf_txLen (base : Nat) (bs : List Byte) (s : State) :
    (s.setBuf base bs).txLen = s.txLen := (rfl)
@[simp] theorem State.setBuf_serialLen (base : Nat) (bs : List Byte) (s : State) :
    (s.setBuf base bs).serialLen = s.serialLen := (rfl)
@[simp] theorem State.setBuf_keyFlags (base : Nat) (bs : List Byte) (s : State) :
    (s.setBuf base bs).keyFlags = s.keyFlags := (rfl)
@[simp] theorem State.setBuf_wkeyLen (base : Nat) (bs : List Byte) (s : State) :
    (s.setBuf base bs).wkeyLen = s.wkeyLen := (rfl)
@[simp] theorem State.setBuf_rkeyLen (base : Nat) (bs : List Byte) (s : State) :
    (s.setBuf base bs).rkeyLen = s.rkeyLen := (rfl)
@[simp] theorem State.setBuf_attkeyLen (base : Nat) (bs : List Byte) (s : State) :
    (s.setBuf base bs).attkeyLen = s.attkeyLen := (rfl)
@[simp] theorem State.setBuf_filterLen (base : Nat) (bs : List Byte) (s : State) :
    (s.setBuf base bs).filterLen = s.filterLen := (rfl)
@[simp] theorem State.setBuf_result (base : Nat) (bs : List Byte) (s : State) :
    (s.setBuf base bs).result = s.result := (rfl)
@[simp] theorem State.setBuf_crcAcc (base : Nat) (bs : List Byte) (s : State) :
    (s.setBuf base bs).crcAcc = s.crcAcc := (rfl)
@[simp] theorem State.setBuf_crcOut (base : Nat) (bs : List Byte) (s : State) :
    (s.setBuf base bs).crcOut = s.crcOut := (rfl)
@[simp] theorem State.setBuf_seedCount (base : Nat) (bs : List Byte) (s : State) :
    (s.setBuf base bs).seedCount = s.seedCount := (rfl)
@[simp] theorem State.setBuf_rngCount (base : Nat) (bs : List Byte) (s : State) :
    (s.setBuf base bs).rngCount = s.rngCount := (rfl)
@[simp] theorem State.setBuf_diagCount (base : Nat) (bs : List Byte) (s : State) :
    (s.setBuf base bs).diagCount = s.diagCount := (rfl)
@[simp] theorem State.setBuf_lastDiag (base : Nat) (bs : List Byte) (s : State) :
    (s.setBuf base bs).lastDiag = s.lastDiag := (rfl)
@[simp] theorem State.setBuf_mem (base : Nat) (bs : List Byte) (s : State) :
    (s.setBuf base bs).mem = Memory.writeBytes s.mem base bs := (rfl)
@[simp] theorem State.setBuf_opl (base : Nat) (bs : List Byte) (s : State) :
    (s.setBuf base bs).opl = s.opl := (rfl)
@[simp] theorem State.setBuf_al (base : Nat) (bs : List Byte) (s : State) :
    (s.setBuf base bs).al = s.al := (rfl)
@[simp] theorem State.setBuf_bl (base : Nat) (bs : List Byte) (s : State) :
    (s.setBuf base bs).bl = s.bl := (rfl)
@[simp] theorem State.setBuf_cl (base : Nat) (bs : List Byte) (s : State) :
    (s.setBuf base bs).cl = s.cl := (rfl)
@[simp] theorem State.setBuf_phase (base : Nat) (bs : List Byte) (s : State) :
    (s.setBuf base bs).phase = s.phase := (rfl)
@[simp] theorem State.setBuf_att (base : Nat) (bs : List Byte) (s : State) :
    (s.setBuf base bs).att = s.att := (rfl)
@[simp] theorem State.setBuf_cancelReq (base : Nat) (bs : List Byte) (s : State) :
    (s.setBuf base bs).cancelReq = s.cancelReq := (rfl)
@[simp] theorem State.setBuf_chunk (base : Nat) (bs : List Byte) (s : State) :
    (s.setBuf base bs).chunk = s.chunk := (rfl)
@[simp] theorem State.setBuf_chunkN (base : Nat) (bs : List Byte) (s : State) :
    (s.setBuf base bs).chunkN = s.chunkN := (rfl)
@[simp] theorem State.setBuf_session (base : Nat) (bs : List Byte) (s : State) :
    (s.setBuf base bs).session = s.session := (rfl)
@[simp] theorem State.setBuf_outLog (base : Nat) (bs : List Byte) (s : State) :
    (s.setBuf base bs).outLog = s.outLog := (rfl)
@[simp] theorem State.setBuf_linkLog (base : Nat) (bs : List Byte) (s : State) :
    (s.setBuf base bs).linkLog = s.linkLog := (rfl)
@[simp] theorem State.setBuf_params (base : Nat) (bs : List Byte) (s : State) :
    (s.setBuf base bs).params = s.params := (rfl)
@[simp] theorem State.setBuf_env (base : Nat) (bs : List Byte) (s : State) :
    (s.setBuf base bs).env = s.env := (rfl)
@[simp] theorem State.setBuf_freeCount (base : Nat) (bs : List Byte) (s : State) :
    (s.setBuf base bs).freeCount = s.freeCount := (rfl)
@[simp] theorem State.setBuf_sched (base : Nat) (bs : List Byte) (s : State) :
    (s.setBuf base bs).sched = s.sched := (rfl)
@[simp] theorem State.setBuf_rdata (base : Nat) (bs : List Byte) (s : State) :
    (s.setBuf base bs).rdata = s.rdata := (rfl)

/-! ## dropTx -/

@[simp] theorem State.dropTx_opc (s : State) : (s.dropTx).opc = s.opc := (rfl)
@[simp] theorem State.dropTx_argA (s : State) : (s.dropTx).argA = s.argA := (rfl)
@[simp] theorem State.dropTx_argB (s : State) : (s.dropTx).argB = s.argB := (rfl)
@[simp] theorem State.dropTx_argC (s : State) : (s.dropTx).argC = s.argC := (rfl)
@[simp] theorem State.dropTx_status (s : State) : (s.dropTx).status = s.status := (rfl)
@[simp] theorem State.dropTx_errCode (s : State) : (s.dropTx).errCode = s.errCode := (rfl)
@[simp] theorem State.dropTx_errStep (s : State) : (s.dropTx).errStep = s.errStep := (rfl)
@[simp] theorem State.dropTx_seqStep (s : State) : (s.dropTx).seqStep = s.seqStep := (rfl)
@[simp] theorem State.dropTx_tries (s : State) : (s.dropTx).tries = s.tries := (rfl)
@[simp] theorem State.dropTx_rxLen (s : State) : (s.dropTx).rxLen = s.rxLen := (rfl)
@[simp] theorem State.dropTx_txLen (s : State) : (s.dropTx).txLen = s.txLen := (rfl)
@[simp] theorem State.dropTx_serialLen (s : State) : (s.dropTx).serialLen = s.serialLen := (rfl)
@[simp] theorem State.dropTx_keyFlags (s : State) : (s.dropTx).keyFlags = s.keyFlags := (rfl)
@[simp] theorem State.dropTx_wkeyLen (s : State) : (s.dropTx).wkeyLen = s.wkeyLen := (rfl)
@[simp] theorem State.dropTx_rkeyLen (s : State) : (s.dropTx).rkeyLen = s.rkeyLen := (rfl)
@[simp] theorem State.dropTx_attkeyLen (s : State) : (s.dropTx).attkeyLen = s.attkeyLen := (rfl)
@[simp] theorem State.dropTx_filterLen (s : State) : (s.dropTx).filterLen = s.filterLen := (rfl)
@[simp] theorem State.dropTx_result (s : State) : (s.dropTx).result = s.result := (rfl)
@[simp] theorem State.dropTx_crcAcc (s : State) : (s.dropTx).crcAcc = s.crcAcc := (rfl)
@[simp] theorem State.dropTx_crcOut (s : State) : (s.dropTx).crcOut = s.crcOut := (rfl)
@[simp] theorem State.dropTx_seedCount (s : State) : (s.dropTx).seedCount = s.seedCount := (rfl)
@[simp] theorem State.dropTx_rngCount (s : State) : (s.dropTx).rngCount = s.rngCount := (rfl)
@[simp] theorem State.dropTx_diagCount (s : State) : (s.dropTx).diagCount = s.diagCount := (rfl)
@[simp] theorem State.dropTx_lastDiag (s : State) : (s.dropTx).lastDiag = s.lastDiag := (rfl)
@[simp] theorem State.dropTx_mem (s : State) : (s.dropTx).mem = s.mem := (rfl)
@[simp] theorem State.dropTx_opl (s : State) : (s.dropTx).opl = s.opl := (rfl)
@[simp] theorem State.dropTx_al (s : State) : (s.dropTx).al = s.al := (rfl)
@[simp] theorem State.dropTx_bl (s : State) : (s.dropTx).bl = s.bl := (rfl)
@[simp] theorem State.dropTx_cl (s : State) : (s.dropTx).cl = s.cl := (rfl)
@[simp] theorem State.dropTx_phase (s : State) : (s.dropTx).phase = s.phase := (rfl)
@[simp] theorem State.dropTx_att (s : State) : (s.dropTx).att = s.att := (rfl)
@[simp] theorem State.dropTx_cancelReq (s : State) : (s.dropTx).cancelReq = s.cancelReq := (rfl)
@[simp] theorem State.dropTx_chunk (s : State) : (s.dropTx).chunk = s.chunk := (rfl)
@[simp] theorem State.dropTx_chunkN (s : State) : (s.dropTx).chunkN = s.chunkN := (rfl)
@[simp] theorem State.dropTx_session (s : State) : (s.dropTx).session = s.session := (rfl)
@[simp] theorem State.dropTx_outLog (s : State) : (s.dropTx).outLog = s.outLog := (rfl)
@[simp] theorem State.dropTx_linkLog (s : State) : (s.dropTx).linkLog = s.linkLog := (rfl)
@[simp] theorem State.dropTx_params (s : State) : (s.dropTx).params = s.params := (rfl)
@[simp] theorem State.dropTx_env (s : State) : (s.dropTx).env = { s.env with tx := s.env.tx.tail } := (rfl)
@[simp] theorem State.dropTx_freeCount (s : State) :
    (s.dropTx).freeCount = s.freeCount + freeStep s.env.tx := (rfl)
@[simp] theorem State.dropTx_sched (s : State) : (s.dropTx).sched = s.sched := (rfl)
@[simp] theorem State.dropTx_rdata (s : State) : (s.dropTx).rdata = s.rdata := (rfl)

/-! ## dropRx -/

@[simp] theorem State.dropRx_opc (s : State) : (s.dropRx).opc = s.opc := (rfl)
@[simp] theorem State.dropRx_argA (s : State) : (s.dropRx).argA = s.argA := (rfl)
@[simp] theorem State.dropRx_argB (s : State) : (s.dropRx).argB = s.argB := (rfl)
@[simp] theorem State.dropRx_argC (s : State) : (s.dropRx).argC = s.argC := (rfl)
@[simp] theorem State.dropRx_status (s : State) : (s.dropRx).status = s.status := (rfl)
@[simp] theorem State.dropRx_errCode (s : State) : (s.dropRx).errCode = s.errCode := (rfl)
@[simp] theorem State.dropRx_errStep (s : State) : (s.dropRx).errStep = s.errStep := (rfl)
@[simp] theorem State.dropRx_seqStep (s : State) : (s.dropRx).seqStep = s.seqStep := (rfl)
@[simp] theorem State.dropRx_tries (s : State) : (s.dropRx).tries = s.tries := (rfl)
@[simp] theorem State.dropRx_rxLen (s : State) : (s.dropRx).rxLen = s.rxLen := (rfl)
@[simp] theorem State.dropRx_txLen (s : State) : (s.dropRx).txLen = s.txLen := (rfl)
@[simp] theorem State.dropRx_serialLen (s : State) : (s.dropRx).serialLen = s.serialLen := (rfl)
@[simp] theorem State.dropRx_keyFlags (s : State) : (s.dropRx).keyFlags = s.keyFlags := (rfl)
@[simp] theorem State.dropRx_wkeyLen (s : State) : (s.dropRx).wkeyLen = s.wkeyLen := (rfl)
@[simp] theorem State.dropRx_rkeyLen (s : State) : (s.dropRx).rkeyLen = s.rkeyLen := (rfl)
@[simp] theorem State.dropRx_attkeyLen (s : State) : (s.dropRx).attkeyLen = s.attkeyLen := (rfl)
@[simp] theorem State.dropRx_filterLen (s : State) : (s.dropRx).filterLen = s.filterLen := (rfl)
@[simp] theorem State.dropRx_result (s : State) : (s.dropRx).result = s.result := (rfl)
@[simp] theorem State.dropRx_crcAcc (s : State) : (s.dropRx).crcAcc = s.crcAcc := (rfl)
@[simp] theorem State.dropRx_crcOut (s : State) : (s.dropRx).crcOut = s.crcOut := (rfl)
@[simp] theorem State.dropRx_seedCount (s : State) : (s.dropRx).seedCount = s.seedCount := (rfl)
@[simp] theorem State.dropRx_rngCount (s : State) : (s.dropRx).rngCount = s.rngCount := (rfl)
@[simp] theorem State.dropRx_diagCount (s : State) : (s.dropRx).diagCount = s.diagCount := (rfl)
@[simp] theorem State.dropRx_lastDiag (s : State) : (s.dropRx).lastDiag = s.lastDiag := (rfl)
@[simp] theorem State.dropRx_mem (s : State) : (s.dropRx).mem = s.mem := (rfl)
@[simp] theorem State.dropRx_opl (s : State) : (s.dropRx).opl = s.opl := (rfl)
@[simp] theorem State.dropRx_al (s : State) : (s.dropRx).al = s.al := (rfl)
@[simp] theorem State.dropRx_bl (s : State) : (s.dropRx).bl = s.bl := (rfl)
@[simp] theorem State.dropRx_cl (s : State) : (s.dropRx).cl = s.cl := (rfl)
@[simp] theorem State.dropRx_phase (s : State) : (s.dropRx).phase = s.phase := (rfl)
@[simp] theorem State.dropRx_att (s : State) : (s.dropRx).att = s.att := (rfl)
@[simp] theorem State.dropRx_cancelReq (s : State) : (s.dropRx).cancelReq = s.cancelReq := (rfl)
@[simp] theorem State.dropRx_chunk (s : State) : (s.dropRx).chunk = s.chunk := (rfl)
@[simp] theorem State.dropRx_chunkN (s : State) : (s.dropRx).chunkN = s.chunkN := (rfl)
@[simp] theorem State.dropRx_session (s : State) : (s.dropRx).session = s.session := (rfl)
@[simp] theorem State.dropRx_outLog (s : State) : (s.dropRx).outLog = s.outLog := (rfl)
@[simp] theorem State.dropRx_linkLog (s : State) : (s.dropRx).linkLog = s.linkLog := (rfl)
@[simp] theorem State.dropRx_params (s : State) : (s.dropRx).params = s.params := (rfl)
@[simp] theorem State.dropRx_env (s : State) : (s.dropRx).env = { s.env with rx := s.env.rx.tail } := (rfl)
@[simp] theorem State.dropRx_freeCount (s : State) :
    (s.dropRx).freeCount = s.freeCount + freeStep s.env.rx := (rfl)
@[simp] theorem State.dropRx_sched (s : State) : (s.dropRx).sched = s.sched := (rfl)
@[simp] theorem State.dropRx_rdata (s : State) : (s.dropRx).rdata = s.rdata := (rfl)

/-! ## dropDraw -/

@[simp] theorem State.dropDraw_opc (s : State) : (s.dropDraw).opc = s.opc := (rfl)
@[simp] theorem State.dropDraw_argA (s : State) : (s.dropDraw).argA = s.argA := (rfl)
@[simp] theorem State.dropDraw_argB (s : State) : (s.dropDraw).argB = s.argB := (rfl)
@[simp] theorem State.dropDraw_argC (s : State) : (s.dropDraw).argC = s.argC := (rfl)
@[simp] theorem State.dropDraw_status (s : State) : (s.dropDraw).status = s.status := (rfl)
@[simp] theorem State.dropDraw_errCode (s : State) : (s.dropDraw).errCode = s.errCode := (rfl)
@[simp] theorem State.dropDraw_errStep (s : State) : (s.dropDraw).errStep = s.errStep := (rfl)
@[simp] theorem State.dropDraw_seqStep (s : State) : (s.dropDraw).seqStep = s.seqStep := (rfl)
@[simp] theorem State.dropDraw_tries (s : State) : (s.dropDraw).tries = s.tries := (rfl)
@[simp] theorem State.dropDraw_rxLen (s : State) : (s.dropDraw).rxLen = s.rxLen := (rfl)
@[simp] theorem State.dropDraw_txLen (s : State) : (s.dropDraw).txLen = s.txLen := (rfl)
@[simp] theorem State.dropDraw_serialLen (s : State) : (s.dropDraw).serialLen = s.serialLen := (rfl)
@[simp] theorem State.dropDraw_keyFlags (s : State) : (s.dropDraw).keyFlags = s.keyFlags := (rfl)
@[simp] theorem State.dropDraw_wkeyLen (s : State) : (s.dropDraw).wkeyLen = s.wkeyLen := (rfl)
@[simp] theorem State.dropDraw_rkeyLen (s : State) : (s.dropDraw).rkeyLen = s.rkeyLen := (rfl)
@[simp] theorem State.dropDraw_attkeyLen (s : State) : (s.dropDraw).attkeyLen = s.attkeyLen := (rfl)
@[simp] theorem State.dropDraw_filterLen (s : State) : (s.dropDraw).filterLen = s.filterLen := (rfl)
@[simp] theorem State.dropDraw_result (s : State) : (s.dropDraw).result = s.result := (rfl)
@[simp] theorem State.dropDraw_crcAcc (s : State) : (s.dropDraw).crcAcc = s.crcAcc := (rfl)
@[simp] theorem State.dropDraw_crcOut (s : State) : (s.dropDraw).crcOut = s.crcOut := (rfl)
@[simp] theorem State.dropDraw_seedCount (s : State) : (s.dropDraw).seedCount = s.seedCount := (rfl)
@[simp] theorem State.dropDraw_rngCount (s : State) : (s.dropDraw).rngCount = s.rngCount := (rfl)
@[simp] theorem State.dropDraw_diagCount (s : State) : (s.dropDraw).diagCount = s.diagCount := (rfl)
@[simp] theorem State.dropDraw_lastDiag (s : State) : (s.dropDraw).lastDiag = s.lastDiag := (rfl)
@[simp] theorem State.dropDraw_mem (s : State) : (s.dropDraw).mem = s.mem := (rfl)
@[simp] theorem State.dropDraw_opl (s : State) : (s.dropDraw).opl = s.opl := (rfl)
@[simp] theorem State.dropDraw_al (s : State) : (s.dropDraw).al = s.al := (rfl)
@[simp] theorem State.dropDraw_bl (s : State) : (s.dropDraw).bl = s.bl := (rfl)
@[simp] theorem State.dropDraw_cl (s : State) : (s.dropDraw).cl = s.cl := (rfl)
@[simp] theorem State.dropDraw_phase (s : State) : (s.dropDraw).phase = s.phase := (rfl)
@[simp] theorem State.dropDraw_att (s : State) : (s.dropDraw).att = s.att := (rfl)
@[simp] theorem State.dropDraw_cancelReq (s : State) : (s.dropDraw).cancelReq = s.cancelReq := (rfl)
@[simp] theorem State.dropDraw_chunk (s : State) : (s.dropDraw).chunk = s.chunk := (rfl)
@[simp] theorem State.dropDraw_chunkN (s : State) : (s.dropDraw).chunkN = s.chunkN := (rfl)
@[simp] theorem State.dropDraw_session (s : State) : (s.dropDraw).session = s.session := (rfl)
@[simp] theorem State.dropDraw_outLog (s : State) : (s.dropDraw).outLog = s.outLog := (rfl)
@[simp] theorem State.dropDraw_linkLog (s : State) : (s.dropDraw).linkLog = s.linkLog := (rfl)
@[simp] theorem State.dropDraw_params (s : State) : (s.dropDraw).params = s.params := (rfl)
@[simp] theorem State.dropDraw_env (s : State) :
    (s.dropDraw).env = { s.env with draws := s.env.draws.tail } := (rfl)
@[simp] theorem State.dropDraw_freeCount (s : State) :
    (s.dropDraw).freeCount = s.freeCount + freeStep s.env.draws := (rfl)
@[simp] theorem State.dropDraw_sched (s : State) : (s.dropDraw).sched = s.sched := (rfl)
@[simp] theorem State.dropDraw_rdata (s : State) : (s.dropDraw).rdata = s.rdata := (rfl)

/-! ## dropOpen -/

@[simp] theorem State.dropOpen_opc (s : State) : (s.dropOpen).opc = s.opc := (rfl)
@[simp] theorem State.dropOpen_argA (s : State) : (s.dropOpen).argA = s.argA := (rfl)
@[simp] theorem State.dropOpen_argB (s : State) : (s.dropOpen).argB = s.argB := (rfl)
@[simp] theorem State.dropOpen_argC (s : State) : (s.dropOpen).argC = s.argC := (rfl)
@[simp] theorem State.dropOpen_status (s : State) : (s.dropOpen).status = s.status := (rfl)
@[simp] theorem State.dropOpen_errCode (s : State) : (s.dropOpen).errCode = s.errCode := (rfl)
@[simp] theorem State.dropOpen_errStep (s : State) : (s.dropOpen).errStep = s.errStep := (rfl)
@[simp] theorem State.dropOpen_seqStep (s : State) : (s.dropOpen).seqStep = s.seqStep := (rfl)
@[simp] theorem State.dropOpen_tries (s : State) : (s.dropOpen).tries = s.tries := (rfl)
@[simp] theorem State.dropOpen_rxLen (s : State) : (s.dropOpen).rxLen = s.rxLen := (rfl)
@[simp] theorem State.dropOpen_txLen (s : State) : (s.dropOpen).txLen = s.txLen := (rfl)
@[simp] theorem State.dropOpen_serialLen (s : State) : (s.dropOpen).serialLen = s.serialLen := (rfl)
@[simp] theorem State.dropOpen_keyFlags (s : State) : (s.dropOpen).keyFlags = s.keyFlags := (rfl)
@[simp] theorem State.dropOpen_wkeyLen (s : State) : (s.dropOpen).wkeyLen = s.wkeyLen := (rfl)
@[simp] theorem State.dropOpen_rkeyLen (s : State) : (s.dropOpen).rkeyLen = s.rkeyLen := (rfl)
@[simp] theorem State.dropOpen_attkeyLen (s : State) : (s.dropOpen).attkeyLen = s.attkeyLen := (rfl)
@[simp] theorem State.dropOpen_filterLen (s : State) : (s.dropOpen).filterLen = s.filterLen := (rfl)
@[simp] theorem State.dropOpen_result (s : State) : (s.dropOpen).result = s.result := (rfl)
@[simp] theorem State.dropOpen_crcAcc (s : State) : (s.dropOpen).crcAcc = s.crcAcc := (rfl)
@[simp] theorem State.dropOpen_crcOut (s : State) : (s.dropOpen).crcOut = s.crcOut := (rfl)
@[simp] theorem State.dropOpen_seedCount (s : State) : (s.dropOpen).seedCount = s.seedCount := (rfl)
@[simp] theorem State.dropOpen_rngCount (s : State) : (s.dropOpen).rngCount = s.rngCount := (rfl)
@[simp] theorem State.dropOpen_diagCount (s : State) : (s.dropOpen).diagCount = s.diagCount := (rfl)
@[simp] theorem State.dropOpen_lastDiag (s : State) : (s.dropOpen).lastDiag = s.lastDiag := (rfl)
@[simp] theorem State.dropOpen_mem (s : State) : (s.dropOpen).mem = s.mem := (rfl)
@[simp] theorem State.dropOpen_opl (s : State) : (s.dropOpen).opl = s.opl := (rfl)
@[simp] theorem State.dropOpen_al (s : State) : (s.dropOpen).al = s.al := (rfl)
@[simp] theorem State.dropOpen_bl (s : State) : (s.dropOpen).bl = s.bl := (rfl)
@[simp] theorem State.dropOpen_cl (s : State) : (s.dropOpen).cl = s.cl := (rfl)
@[simp] theorem State.dropOpen_phase (s : State) : (s.dropOpen).phase = s.phase := (rfl)
@[simp] theorem State.dropOpen_att (s : State) : (s.dropOpen).att = s.att := (rfl)
@[simp] theorem State.dropOpen_cancelReq (s : State) : (s.dropOpen).cancelReq = s.cancelReq := (rfl)
@[simp] theorem State.dropOpen_chunk (s : State) : (s.dropOpen).chunk = s.chunk := (rfl)
@[simp] theorem State.dropOpen_chunkN (s : State) : (s.dropOpen).chunkN = s.chunkN := (rfl)
@[simp] theorem State.dropOpen_session (s : State) : (s.dropOpen).session = s.session := (rfl)
@[simp] theorem State.dropOpen_outLog (s : State) : (s.dropOpen).outLog = s.outLog := (rfl)
@[simp] theorem State.dropOpen_linkLog (s : State) : (s.dropOpen).linkLog = s.linkLog := (rfl)
@[simp] theorem State.dropOpen_params (s : State) : (s.dropOpen).params = s.params := (rfl)
@[simp] theorem State.dropOpen_env (s : State) :
    (s.dropOpen).env = { s.env with opens := s.env.opens.tail } := (rfl)
@[simp] theorem State.dropOpen_freeCount (s : State) :
    (s.dropOpen).freeCount = s.freeCount + freeStep s.env.opens := (rfl)
@[simp] theorem State.dropOpen_sched (s : State) : (s.dropOpen).sched = s.sched := (rfl)
@[simp] theorem State.dropOpen_rdata (s : State) : (s.dropOpen).rdata = s.rdata := (rfl)

/-! ## dropOrder -/

@[simp] theorem State.dropOrder_opc (s : State) : (s.dropOrder).opc = s.opc := (rfl)
@[simp] theorem State.dropOrder_argA (s : State) : (s.dropOrder).argA = s.argA := (rfl)
@[simp] theorem State.dropOrder_argB (s : State) : (s.dropOrder).argB = s.argB := (rfl)
@[simp] theorem State.dropOrder_argC (s : State) : (s.dropOrder).argC = s.argC := (rfl)
@[simp] theorem State.dropOrder_status (s : State) : (s.dropOrder).status = s.status := (rfl)
@[simp] theorem State.dropOrder_errCode (s : State) : (s.dropOrder).errCode = s.errCode := (rfl)
@[simp] theorem State.dropOrder_errStep (s : State) : (s.dropOrder).errStep = s.errStep := (rfl)
@[simp] theorem State.dropOrder_seqStep (s : State) : (s.dropOrder).seqStep = s.seqStep := (rfl)
@[simp] theorem State.dropOrder_tries (s : State) : (s.dropOrder).tries = s.tries := (rfl)
@[simp] theorem State.dropOrder_rxLen (s : State) : (s.dropOrder).rxLen = s.rxLen := (rfl)
@[simp] theorem State.dropOrder_txLen (s : State) : (s.dropOrder).txLen = s.txLen := (rfl)
@[simp] theorem State.dropOrder_serialLen (s : State) : (s.dropOrder).serialLen = s.serialLen := (rfl)
@[simp] theorem State.dropOrder_keyFlags (s : State) : (s.dropOrder).keyFlags = s.keyFlags := (rfl)
@[simp] theorem State.dropOrder_wkeyLen (s : State) : (s.dropOrder).wkeyLen = s.wkeyLen := (rfl)
@[simp] theorem State.dropOrder_rkeyLen (s : State) : (s.dropOrder).rkeyLen = s.rkeyLen := (rfl)
@[simp] theorem State.dropOrder_attkeyLen (s : State) : (s.dropOrder).attkeyLen = s.attkeyLen := (rfl)
@[simp] theorem State.dropOrder_filterLen (s : State) : (s.dropOrder).filterLen = s.filterLen := (rfl)
@[simp] theorem State.dropOrder_result (s : State) : (s.dropOrder).result = s.result := (rfl)
@[simp] theorem State.dropOrder_crcAcc (s : State) : (s.dropOrder).crcAcc = s.crcAcc := (rfl)
@[simp] theorem State.dropOrder_crcOut (s : State) : (s.dropOrder).crcOut = s.crcOut := (rfl)
@[simp] theorem State.dropOrder_seedCount (s : State) : (s.dropOrder).seedCount = s.seedCount := (rfl)
@[simp] theorem State.dropOrder_rngCount (s : State) : (s.dropOrder).rngCount = s.rngCount := (rfl)
@[simp] theorem State.dropOrder_diagCount (s : State) : (s.dropOrder).diagCount = s.diagCount := (rfl)
@[simp] theorem State.dropOrder_lastDiag (s : State) : (s.dropOrder).lastDiag = s.lastDiag := (rfl)
@[simp] theorem State.dropOrder_mem (s : State) : (s.dropOrder).mem = s.mem := (rfl)
@[simp] theorem State.dropOrder_opl (s : State) : (s.dropOrder).opl = s.opl := (rfl)
@[simp] theorem State.dropOrder_al (s : State) : (s.dropOrder).al = s.al := (rfl)
@[simp] theorem State.dropOrder_bl (s : State) : (s.dropOrder).bl = s.bl := (rfl)
@[simp] theorem State.dropOrder_cl (s : State) : (s.dropOrder).cl = s.cl := (rfl)
@[simp] theorem State.dropOrder_phase (s : State) : (s.dropOrder).phase = s.phase := (rfl)
@[simp] theorem State.dropOrder_att (s : State) : (s.dropOrder).att = s.att := (rfl)
@[simp] theorem State.dropOrder_cancelReq (s : State) : (s.dropOrder).cancelReq = s.cancelReq := (rfl)
@[simp] theorem State.dropOrder_chunk (s : State) : (s.dropOrder).chunk = s.chunk := (rfl)
@[simp] theorem State.dropOrder_chunkN (s : State) : (s.dropOrder).chunkN = s.chunkN := (rfl)
@[simp] theorem State.dropOrder_session (s : State) : (s.dropOrder).session = s.session := (rfl)
@[simp] theorem State.dropOrder_outLog (s : State) : (s.dropOrder).outLog = s.outLog := (rfl)
@[simp] theorem State.dropOrder_linkLog (s : State) : (s.dropOrder).linkLog = s.linkLog := (rfl)
@[simp] theorem State.dropOrder_params (s : State) : (s.dropOrder).params = s.params := (rfl)
@[simp] theorem State.dropOrder_env (s : State) :
    (s.dropOrder).env = { s.env with order := s.env.order.tail } := (rfl)
@[simp] theorem State.dropOrder_freeCount (s : State) :
    (s.dropOrder).freeCount = s.freeCount + freeStep s.env.order := (rfl)
@[simp] theorem State.dropOrder_sched (s : State) : (s.dropOrder).sched = s.sched := (rfl)
@[simp] theorem State.dropOrder_rdata (s : State) : (s.dropOrder).rdata = s.rdata := (rfl)

/-! ## raise -/

@[simp] theorem State.raise_opc (e : ErrName) (s : State) : (s.raise e).opc = s.opc := (rfl)
@[simp] theorem State.raise_argA (e : ErrName) (s : State) : (s.raise e).argA = s.argA := (rfl)
@[simp] theorem State.raise_argB (e : ErrName) (s : State) : (s.raise e).argB = s.argB := (rfl)
@[simp] theorem State.raise_argC (e : ErrName) (s : State) : (s.raise e).argC = s.argC := (rfl)
@[simp] theorem State.raise_status (e : ErrName) (s : State) : (s.raise e).status = s.status.onFault := (rfl)
@[simp] theorem State.raise_errCode (e : ErrName) (s : State) : (s.raise e).errCode = e.code := (rfl)
@[simp] theorem State.raise_errStep (e : ErrName) (s : State) :
    (s.raise e).errStep = if s.opl = opcConfigure then s.seqStep else 0 := (rfl)
@[simp] theorem State.raise_seqStep (e : ErrName) (s : State) : (s.raise e).seqStep = s.seqStep := (rfl)
@[simp] theorem State.raise_tries (e : ErrName) (s : State) : (s.raise e).tries = s.tries := (rfl)
@[simp] theorem State.raise_rxLen (e : ErrName) (s : State) : (s.raise e).rxLen = s.rxLen := (rfl)
@[simp] theorem State.raise_txLen (e : ErrName) (s : State) : (s.raise e).txLen = s.txLen := (rfl)
@[simp] theorem State.raise_serialLen (e : ErrName) (s : State) : (s.raise e).serialLen = s.serialLen := (rfl)
@[simp] theorem State.raise_keyFlags (e : ErrName) (s : State) : (s.raise e).keyFlags = s.keyFlags := (rfl)
@[simp] theorem State.raise_wkeyLen (e : ErrName) (s : State) : (s.raise e).wkeyLen = s.wkeyLen := (rfl)
@[simp] theorem State.raise_rkeyLen (e : ErrName) (s : State) : (s.raise e).rkeyLen = s.rkeyLen := (rfl)
@[simp] theorem State.raise_attkeyLen (e : ErrName) (s : State) : (s.raise e).attkeyLen = s.attkeyLen := (rfl)
@[simp] theorem State.raise_filterLen (e : ErrName) (s : State) : (s.raise e).filterLen = s.filterLen := (rfl)
@[simp] theorem State.raise_result (e : ErrName) (s : State) : (s.raise e).result = s.result := (rfl)
@[simp] theorem State.raise_crcAcc (e : ErrName) (s : State) : (s.raise e).crcAcc = s.crcAcc := (rfl)
@[simp] theorem State.raise_crcOut (e : ErrName) (s : State) : (s.raise e).crcOut = s.crcOut := (rfl)
@[simp] theorem State.raise_seedCount (e : ErrName) (s : State) : (s.raise e).seedCount = s.seedCount := (rfl)
@[simp] theorem State.raise_rngCount (e : ErrName) (s : State) : (s.raise e).rngCount = s.rngCount := (rfl)
@[simp] theorem State.raise_diagCount (e : ErrName) (s : State) : (s.raise e).diagCount = s.diagCount := (rfl)
@[simp] theorem State.raise_lastDiag (e : ErrName) (s : State) : (s.raise e).lastDiag = s.lastDiag := (rfl)
@[simp] theorem State.raise_mem (e : ErrName) (s : State) : (s.raise e).mem = s.mem := (rfl)
@[simp] theorem State.raise_opl (e : ErrName) (s : State) : (s.raise e).opl = s.opl := (rfl)
@[simp] theorem State.raise_al (e : ErrName) (s : State) : (s.raise e).al = s.al := (rfl)
@[simp] theorem State.raise_bl (e : ErrName) (s : State) : (s.raise e).bl = s.bl := (rfl)
@[simp] theorem State.raise_cl (e : ErrName) (s : State) : (s.raise e).cl = s.cl := (rfl)
@[simp] theorem State.raise_phase (e : ErrName) (s : State) : (s.raise e).phase = .idle := (rfl)
@[simp] theorem State.raise_att (e : ErrName) (s : State) : (s.raise e).att = 0 := (rfl)
@[simp] theorem State.raise_cancelReq (e : ErrName) (s : State) : (s.raise e).cancelReq = s.cancelReq := (rfl)
@[simp] theorem State.raise_chunk (e : ErrName) (s : State) : (s.raise e).chunk = s.chunk := (rfl)
@[simp] theorem State.raise_chunkN (e : ErrName) (s : State) : (s.raise e).chunkN = s.chunkN := (rfl)
@[simp] theorem State.raise_session (e : ErrName) (s : State) : (s.raise e).session = s.session := (rfl)
@[simp] theorem State.raise_outLog (e : ErrName) (s : State) : (s.raise e).outLog = s.outLog := (rfl)
@[simp] theorem State.raise_linkLog (e : ErrName) (s : State) : (s.raise e).linkLog = s.linkLog := (rfl)
@[simp] theorem State.raise_params (e : ErrName) (s : State) : (s.raise e).params = s.params := (rfl)
@[simp] theorem State.raise_env (e : ErrName) (s : State) : (s.raise e).env = s.env := (rfl)
@[simp] theorem State.raise_freeCount (e : ErrName) (s : State) : (s.raise e).freeCount = s.freeCount := (rfl)
@[simp] theorem State.raise_sched (e : ErrName) (s : State) : (s.raise e).sched = s.sched := (rfl)
@[simp] theorem State.raise_rdata (e : ErrName) (s : State) : (s.raise e).rdata = s.rdata := (rfl)

/-! ## finish -/

@[simp] theorem State.finish_opc (s : State) : (s.finish).opc = s.opc := (rfl)
@[simp] theorem State.finish_argA (s : State) : (s.finish).argA = s.argA := (rfl)
@[simp] theorem State.finish_argB (s : State) : (s.finish).argB = s.argB := (rfl)
@[simp] theorem State.finish_argC (s : State) : (s.finish).argC = s.argC := (rfl)
@[simp] theorem State.finish_status (s : State) : (s.finish).status = s.status.onEnd := (rfl)
@[simp] theorem State.finish_errCode (s : State) : (s.finish).errCode = s.errCode := (rfl)
@[simp] theorem State.finish_errStep (s : State) : (s.finish).errStep = s.errStep := (rfl)
@[simp] theorem State.finish_seqStep (s : State) : (s.finish).seqStep = s.seqStep := (rfl)
@[simp] theorem State.finish_tries (s : State) : (s.finish).tries = s.tries := (rfl)
@[simp] theorem State.finish_rxLen (s : State) : (s.finish).rxLen = s.rxLen := (rfl)
@[simp] theorem State.finish_txLen (s : State) : (s.finish).txLen = s.txLen := (rfl)
@[simp] theorem State.finish_serialLen (s : State) : (s.finish).serialLen = s.serialLen := (rfl)
@[simp] theorem State.finish_keyFlags (s : State) : (s.finish).keyFlags = s.keyFlags := (rfl)
@[simp] theorem State.finish_wkeyLen (s : State) : (s.finish).wkeyLen = s.wkeyLen := (rfl)
@[simp] theorem State.finish_rkeyLen (s : State) : (s.finish).rkeyLen = s.rkeyLen := (rfl)
@[simp] theorem State.finish_attkeyLen (s : State) : (s.finish).attkeyLen = s.attkeyLen := (rfl)
@[simp] theorem State.finish_filterLen (s : State) : (s.finish).filterLen = s.filterLen := (rfl)
@[simp] theorem State.finish_result (s : State) : (s.finish).result = s.result := (rfl)
@[simp] theorem State.finish_crcAcc (s : State) : (s.finish).crcAcc = s.crcAcc := (rfl)
@[simp] theorem State.finish_crcOut (s : State) : (s.finish).crcOut = s.crcOut := (rfl)
@[simp] theorem State.finish_seedCount (s : State) : (s.finish).seedCount = s.seedCount := (rfl)
@[simp] theorem State.finish_rngCount (s : State) : (s.finish).rngCount = s.rngCount := (rfl)
@[simp] theorem State.finish_diagCount (s : State) : (s.finish).diagCount = s.diagCount := (rfl)
@[simp] theorem State.finish_lastDiag (s : State) : (s.finish).lastDiag = s.lastDiag := (rfl)
@[simp] theorem State.finish_mem (s : State) : (s.finish).mem = s.mem := (rfl)
@[simp] theorem State.finish_opl (s : State) : (s.finish).opl = s.opl := (rfl)
@[simp] theorem State.finish_al (s : State) : (s.finish).al = s.al := (rfl)
@[simp] theorem State.finish_bl (s : State) : (s.finish).bl = s.bl := (rfl)
@[simp] theorem State.finish_cl (s : State) : (s.finish).cl = s.cl := (rfl)
@[simp] theorem State.finish_phase (s : State) : (s.finish).phase = .idle := (rfl)
@[simp] theorem State.finish_att (s : State) : (s.finish).att = 0 := (rfl)
@[simp] theorem State.finish_cancelReq (s : State) : (s.finish).cancelReq = s.cancelReq := (rfl)
@[simp] theorem State.finish_chunk (s : State) : (s.finish).chunk = s.chunk := (rfl)
@[simp] theorem State.finish_chunkN (s : State) : (s.finish).chunkN = s.chunkN := (rfl)
@[simp] theorem State.finish_session (s : State) : (s.finish).session = s.session := (rfl)
@[simp] theorem State.finish_outLog (s : State) : (s.finish).outLog = s.outLog := (rfl)
@[simp] theorem State.finish_linkLog (s : State) : (s.finish).linkLog = s.linkLog := (rfl)
@[simp] theorem State.finish_params (s : State) : (s.finish).params = s.params := (rfl)
@[simp] theorem State.finish_env (s : State) : (s.finish).env = s.env := (rfl)
@[simp] theorem State.finish_freeCount (s : State) : (s.finish).freeCount = s.freeCount := (rfl)
@[simp] theorem State.finish_sched (s : State) : (s.finish).sched = s.sched := (rfl)
@[simp] theorem State.finish_rdata (s : State) : (s.finish).rdata = s.rdata := (rfl)

/-! ## issue -/

@[simp] theorem State.issue_opc (v : Byte) (s : State) : (s.issue v).opc = v := (rfl)
@[simp] theorem State.issue_argA (v : Byte) (s : State) : (s.issue v).argA = s.argA := (rfl)
@[simp] theorem State.issue_argB (v : Byte) (s : State) : (s.issue v).argB = s.argB := (rfl)
@[simp] theorem State.issue_argC (v : Byte) (s : State) : (s.issue v).argC = s.argC := (rfl)
@[simp] theorem State.issue_status (v : Byte) (s : State) : (s.issue v).status = s.status.onIssue := (rfl)
@[simp] theorem State.issue_errCode (v : Byte) (s : State) : (s.issue v).errCode = 0x00 := (rfl)
@[simp] theorem State.issue_errStep (v : Byte) (s : State) : (s.issue v).errStep = 0x00 := (rfl)
@[simp] theorem State.issue_seqStep (v : Byte) (s : State) : (s.issue v).seqStep = s.seqStep := (rfl)
@[simp] theorem State.issue_tries (v : Byte) (s : State) : (s.issue v).tries = s.tries := (rfl)
@[simp] theorem State.issue_rxLen (v : Byte) (s : State) : (s.issue v).rxLen = s.rxLen := (rfl)
@[simp] theorem State.issue_txLen (v : Byte) (s : State) : (s.issue v).txLen = s.txLen := (rfl)
@[simp] theorem State.issue_serialLen (v : Byte) (s : State) : (s.issue v).serialLen = s.serialLen := (rfl)
@[simp] theorem State.issue_keyFlags (v : Byte) (s : State) : (s.issue v).keyFlags = s.keyFlags := (rfl)
@[simp] theorem State.issue_wkeyLen (v : Byte) (s : State) : (s.issue v).wkeyLen = s.wkeyLen := (rfl)
@[simp] theorem State.issue_rkeyLen (v : Byte) (s : State) : (s.issue v).rkeyLen = s.rkeyLen := (rfl)
@[simp] theorem State.issue_attkeyLen (v : Byte) (s : State) : (s.issue v).attkeyLen = s.attkeyLen := (rfl)
@[simp] theorem State.issue_filterLen (v : Byte) (s : State) : (s.issue v).filterLen = s.filterLen := (rfl)
@[simp] theorem State.issue_result (v : Byte) (s : State) : (s.issue v).result = s.result := (rfl)
@[simp] theorem State.issue_crcAcc (v : Byte) (s : State) : (s.issue v).crcAcc = s.crcAcc := (rfl)
@[simp] theorem State.issue_crcOut (v : Byte) (s : State) : (s.issue v).crcOut = s.crcOut := (rfl)
@[simp] theorem State.issue_seedCount (v : Byte) (s : State) : (s.issue v).seedCount = s.seedCount := (rfl)
@[simp] theorem State.issue_rngCount (v : Byte) (s : State) : (s.issue v).rngCount = s.rngCount := (rfl)
@[simp] theorem State.issue_diagCount (v : Byte) (s : State) : (s.issue v).diagCount = s.diagCount := (rfl)
@[simp] theorem State.issue_lastDiag (v : Byte) (s : State) : (s.issue v).lastDiag = s.lastDiag := (rfl)
@[simp] theorem State.issue_mem (v : Byte) (s : State) : (s.issue v).mem = s.mem := (rfl)
@[simp] theorem State.issue_opl (v : Byte) (s : State) : (s.issue v).opl = v := (rfl)
@[simp] theorem State.issue_al (v : Byte) (s : State) : (s.issue v).al = s.argA := (rfl)
@[simp] theorem State.issue_bl (v : Byte) (s : State) : (s.issue v).bl = s.argB := (rfl)
@[simp] theorem State.issue_cl (v : Byte) (s : State) : (s.issue v).cl = s.argC := (rfl)
@[simp] theorem State.issue_phase (v : Byte) (s : State) : (s.issue v).phase = .ready .start := (rfl)
@[simp] theorem State.issue_att (v : Byte) (s : State) : (s.issue v).att = s.att := (rfl)
@[simp] theorem State.issue_cancelReq (v : Byte) (s : State) : (s.issue v).cancelReq = false := (rfl)
@[simp] theorem State.issue_chunk (v : Byte) (s : State) : (s.issue v).chunk = s.chunk := (rfl)
@[simp] theorem State.issue_chunkN (v : Byte) (s : State) : (s.issue v).chunkN = s.chunkN := (rfl)
@[simp] theorem State.issue_session (v : Byte) (s : State) : (s.issue v).session = s.session := (rfl)
@[simp] theorem State.issue_outLog (v : Byte) (s : State) : (s.issue v).outLog = s.outLog := (rfl)
@[simp] theorem State.issue_linkLog (v : Byte) (s : State) : (s.issue v).linkLog = s.linkLog := (rfl)
@[simp] theorem State.issue_params (v : Byte) (s : State) : (s.issue v).params = s.params := (rfl)
@[simp] theorem State.issue_env (v : Byte) (s : State) : (s.issue v).env = s.env := (rfl)
@[simp] theorem State.issue_freeCount (v : Byte) (s : State) : (s.issue v).freeCount = s.freeCount := (rfl)
@[simp] theorem State.issue_sched (v : Byte) (s : State) : (s.issue v).sched = s.sched := (rfl)
@[simp] theorem State.issue_rdata (v : Byte) (s : State) : (s.issue v).rdata = s.rdata := (rfl)

/-! ## emit -/

@[simp] theorem State.emit_opc (e : OutEvent) (s : State) : (s.emit e).opc = s.opc := (rfl)
@[simp] theorem State.emit_argA (e : OutEvent) (s : State) : (s.emit e).argA = s.argA := (rfl)
@[simp] theorem State.emit_argB (e : OutEvent) (s : State) : (s.emit e).argB = s.argB := (rfl)
@[simp] theorem State.emit_argC (e : OutEvent) (s : State) : (s.emit e).argC = s.argC := (rfl)
@[simp] theorem State.emit_status (e : OutEvent) (s : State) : (s.emit e).status = s.status := (rfl)
@[simp] theorem State.emit_errCode (e : OutEvent) (s : State) : (s.emit e).errCode = s.errCode := (rfl)
@[simp] theorem State.emit_errStep (e : OutEvent) (s : State) : (s.emit e).errStep = s.errStep := (rfl)
@[simp] theorem State.emit_seqStep (e : OutEvent) (s : State) : (s.emit e).seqStep = s.seqStep := (rfl)
@[simp] theorem State.emit_tries (e : OutEvent) (s : State) : (s.emit e).tries = s.tries := (rfl)
@[simp] theorem State.emit_rxLen (e : OutEvent) (s : State) : (s.emit e).rxLen = s.rxLen := (rfl)
@[simp] theorem State.emit_txLen (e : OutEvent) (s : State) : (s.emit e).txLen = s.txLen := (rfl)
@[simp] theorem State.emit_serialLen (e : OutEvent) (s : State) : (s.emit e).serialLen = s.serialLen := (rfl)
@[simp] theorem State.emit_keyFlags (e : OutEvent) (s : State) : (s.emit e).keyFlags = s.keyFlags := (rfl)
@[simp] theorem State.emit_wkeyLen (e : OutEvent) (s : State) : (s.emit e).wkeyLen = s.wkeyLen := (rfl)
@[simp] theorem State.emit_rkeyLen (e : OutEvent) (s : State) : (s.emit e).rkeyLen = s.rkeyLen := (rfl)
@[simp] theorem State.emit_attkeyLen (e : OutEvent) (s : State) : (s.emit e).attkeyLen = s.attkeyLen := (rfl)
@[simp] theorem State.emit_filterLen (e : OutEvent) (s : State) : (s.emit e).filterLen = s.filterLen := (rfl)
@[simp] theorem State.emit_result (e : OutEvent) (s : State) : (s.emit e).result = s.result := (rfl)
@[simp] theorem State.emit_crcAcc (e : OutEvent) (s : State) : (s.emit e).crcAcc = s.crcAcc := (rfl)
@[simp] theorem State.emit_crcOut (e : OutEvent) (s : State) : (s.emit e).crcOut = s.crcOut := (rfl)
@[simp] theorem State.emit_seedCount (e : OutEvent) (s : State) : (s.emit e).seedCount = s.seedCount := (rfl)
@[simp] theorem State.emit_rngCount (e : OutEvent) (s : State) : (s.emit e).rngCount = s.rngCount := (rfl)
@[simp] theorem State.emit_diagCount (e : OutEvent) (s : State) : (s.emit e).diagCount = s.diagCount := (rfl)
@[simp] theorem State.emit_lastDiag (e : OutEvent) (s : State) : (s.emit e).lastDiag = s.lastDiag := (rfl)
@[simp] theorem State.emit_mem (e : OutEvent) (s : State) : (s.emit e).mem = s.mem := (rfl)
@[simp] theorem State.emit_opl (e : OutEvent) (s : State) : (s.emit e).opl = s.opl := (rfl)
@[simp] theorem State.emit_al (e : OutEvent) (s : State) : (s.emit e).al = s.al := (rfl)
@[simp] theorem State.emit_bl (e : OutEvent) (s : State) : (s.emit e).bl = s.bl := (rfl)
@[simp] theorem State.emit_cl (e : OutEvent) (s : State) : (s.emit e).cl = s.cl := (rfl)
@[simp] theorem State.emit_phase (e : OutEvent) (s : State) : (s.emit e).phase = s.phase := (rfl)
@[simp] theorem State.emit_att (e : OutEvent) (s : State) : (s.emit e).att = s.att := (rfl)
@[simp] theorem State.emit_cancelReq (e : OutEvent) (s : State) : (s.emit e).cancelReq = s.cancelReq := (rfl)
@[simp] theorem State.emit_chunk (e : OutEvent) (s : State) : (s.emit e).chunk = s.chunk := (rfl)
@[simp] theorem State.emit_chunkN (e : OutEvent) (s : State) : (s.emit e).chunkN = s.chunkN := (rfl)
@[simp] theorem State.emit_session (e : OutEvent) (s : State) : (s.emit e).session = s.session := (rfl)
@[simp] theorem State.emit_outLog (e : OutEvent) (s : State) : (s.emit e).outLog = s.outLog ++ [e] := (rfl)
@[simp] theorem State.emit_linkLog (e : OutEvent) (s : State) : (s.emit e).linkLog = s.linkLog := (rfl)
@[simp] theorem State.emit_params (e : OutEvent) (s : State) : (s.emit e).params = s.params := (rfl)
@[simp] theorem State.emit_env (e : OutEvent) (s : State) : (s.emit e).env = s.env := (rfl)
@[simp] theorem State.emit_freeCount (e : OutEvent) (s : State) : (s.emit e).freeCount = s.freeCount := (rfl)
@[simp] theorem State.emit_sched (e : OutEvent) (s : State) : (s.emit e).sched = s.sched := (rfl)
@[simp] theorem State.emit_rdata (e : OutEvent) (s : State) : (s.emit e).rdata = s.rdata := (rfl)

/-! ## diag -/

@[simp] theorem State.diag_opc (e : ErrName) (s : State) : (s.diag e).opc = s.opc := (rfl)
@[simp] theorem State.diag_argA (e : ErrName) (s : State) : (s.diag e).argA = s.argA := (rfl)
@[simp] theorem State.diag_argB (e : ErrName) (s : State) : (s.diag e).argB = s.argB := (rfl)
@[simp] theorem State.diag_argC (e : ErrName) (s : State) : (s.diag e).argC = s.argC := (rfl)
@[simp] theorem State.diag_status (e : ErrName) (s : State) : (s.diag e).status = s.status := (rfl)
@[simp] theorem State.diag_errCode (e : ErrName) (s : State) : (s.diag e).errCode = s.errCode := (rfl)
@[simp] theorem State.diag_errStep (e : ErrName) (s : State) : (s.diag e).errStep = s.errStep := (rfl)
@[simp] theorem State.diag_seqStep (e : ErrName) (s : State) : (s.diag e).seqStep = s.seqStep := (rfl)
@[simp] theorem State.diag_tries (e : ErrName) (s : State) : (s.diag e).tries = s.tries := (rfl)
@[simp] theorem State.diag_rxLen (e : ErrName) (s : State) : (s.diag e).rxLen = s.rxLen := (rfl)
@[simp] theorem State.diag_txLen (e : ErrName) (s : State) : (s.diag e).txLen = s.txLen := (rfl)
@[simp] theorem State.diag_serialLen (e : ErrName) (s : State) : (s.diag e).serialLen = s.serialLen := (rfl)
@[simp] theorem State.diag_keyFlags (e : ErrName) (s : State) : (s.diag e).keyFlags = s.keyFlags := (rfl)
@[simp] theorem State.diag_wkeyLen (e : ErrName) (s : State) : (s.diag e).wkeyLen = s.wkeyLen := (rfl)
@[simp] theorem State.diag_rkeyLen (e : ErrName) (s : State) : (s.diag e).rkeyLen = s.rkeyLen := (rfl)
@[simp] theorem State.diag_attkeyLen (e : ErrName) (s : State) : (s.diag e).attkeyLen = s.attkeyLen := (rfl)
@[simp] theorem State.diag_filterLen (e : ErrName) (s : State) : (s.diag e).filterLen = s.filterLen := (rfl)
@[simp] theorem State.diag_result (e : ErrName) (s : State) : (s.diag e).result = s.result := (rfl)
@[simp] theorem State.diag_crcAcc (e : ErrName) (s : State) : (s.diag e).crcAcc = s.crcAcc := (rfl)
@[simp] theorem State.diag_crcOut (e : ErrName) (s : State) : (s.diag e).crcOut = s.crcOut := (rfl)
@[simp] theorem State.diag_seedCount (e : ErrName) (s : State) : (s.diag e).seedCount = s.seedCount := (rfl)
@[simp] theorem State.diag_rngCount (e : ErrName) (s : State) : (s.diag e).rngCount = s.rngCount := (rfl)
@[simp] theorem State.diag_diagCount (e : ErrName) (s : State) :
    (s.diag e).diagCount = s.diagCount + 1 := (rfl)
@[simp] theorem State.diag_lastDiag (e : ErrName) (s : State) : (s.diag e).lastDiag = e.code := (rfl)
@[simp] theorem State.diag_mem (e : ErrName) (s : State) : (s.diag e).mem = s.mem := (rfl)
@[simp] theorem State.diag_opl (e : ErrName) (s : State) : (s.diag e).opl = s.opl := (rfl)
@[simp] theorem State.diag_al (e : ErrName) (s : State) : (s.diag e).al = s.al := (rfl)
@[simp] theorem State.diag_bl (e : ErrName) (s : State) : (s.diag e).bl = s.bl := (rfl)
@[simp] theorem State.diag_cl (e : ErrName) (s : State) : (s.diag e).cl = s.cl := (rfl)
@[simp] theorem State.diag_phase (e : ErrName) (s : State) : (s.diag e).phase = s.phase := (rfl)
@[simp] theorem State.diag_att (e : ErrName) (s : State) : (s.diag e).att = s.att := (rfl)
@[simp] theorem State.diag_cancelReq (e : ErrName) (s : State) : (s.diag e).cancelReq = s.cancelReq := (rfl)
@[simp] theorem State.diag_chunk (e : ErrName) (s : State) : (s.diag e).chunk = s.chunk := (rfl)
@[simp] theorem State.diag_chunkN (e : ErrName) (s : State) : (s.diag e).chunkN = s.chunkN := (rfl)
@[simp] theorem State.diag_session (e : ErrName) (s : State) : (s.diag e).session = s.session := (rfl)
@[simp] theorem State.diag_outLog (e : ErrName) (s : State) :
    (s.diag e).outLog = s.outLog ++ [.diag e.code] := (rfl)
@[simp] theorem State.diag_linkLog (e : ErrName) (s : State) : (s.diag e).linkLog = s.linkLog := (rfl)
@[simp] theorem State.diag_params (e : ErrName) (s : State) : (s.diag e).params = s.params := (rfl)
@[simp] theorem State.diag_env (e : ErrName) (s : State) : (s.diag e).env = s.env := (rfl)
@[simp] theorem State.diag_freeCount (e : ErrName) (s : State) : (s.diag e).freeCount = s.freeCount := (rfl)
@[simp] theorem State.diag_sched (e : ErrName) (s : State) : (s.diag e).sched = s.sched := (rfl)
@[simp] theorem State.diag_rdata (e : ErrName) (s : State) : (s.diag e).rdata = s.rdata := (rfl)

/-! ## transmit -/

@[simp] theorem State.transmit_opc (bs : List Byte) (s : State) : (s.transmit bs).opc = s.opc := (rfl)
@[simp] theorem State.transmit_argA (bs : List Byte) (s : State) : (s.transmit bs).argA = s.argA := (rfl)
@[simp] theorem State.transmit_argB (bs : List Byte) (s : State) : (s.transmit bs).argB = s.argB := (rfl)
@[simp] theorem State.transmit_argC (bs : List Byte) (s : State) : (s.transmit bs).argC = s.argC := (rfl)
@[simp] theorem State.transmit_status (bs : List Byte) (s : State) :
    (s.transmit bs).status = s.status := (rfl)
@[simp] theorem State.transmit_errCode (bs : List Byte) (s : State) :
    (s.transmit bs).errCode = s.errCode := (rfl)
@[simp] theorem State.transmit_errStep (bs : List Byte) (s : State) :
    (s.transmit bs).errStep = s.errStep := (rfl)
@[simp] theorem State.transmit_seqStep (bs : List Byte) (s : State) :
    (s.transmit bs).seqStep = s.seqStep := (rfl)
@[simp] theorem State.transmit_tries (bs : List Byte) (s : State) : (s.transmit bs).tries = s.tries := (rfl)
@[simp] theorem State.transmit_rxLen (bs : List Byte) (s : State) : (s.transmit bs).rxLen = s.rxLen := (rfl)
@[simp] theorem State.transmit_txLen (bs : List Byte) (s : State) :
    (s.transmit bs).txLen = BitVec.ofNat 8 bs.length := (rfl)
@[simp] theorem State.transmit_serialLen (bs : List Byte) (s : State) :
    (s.transmit bs).serialLen = s.serialLen := (rfl)
@[simp] theorem State.transmit_keyFlags (bs : List Byte) (s : State) :
    (s.transmit bs).keyFlags = s.keyFlags := (rfl)
@[simp] theorem State.transmit_wkeyLen (bs : List Byte) (s : State) :
    (s.transmit bs).wkeyLen = s.wkeyLen := (rfl)
@[simp] theorem State.transmit_rkeyLen (bs : List Byte) (s : State) :
    (s.transmit bs).rkeyLen = s.rkeyLen := (rfl)
@[simp] theorem State.transmit_attkeyLen (bs : List Byte) (s : State) :
    (s.transmit bs).attkeyLen = s.attkeyLen := (rfl)
@[simp] theorem State.transmit_filterLen (bs : List Byte) (s : State) :
    (s.transmit bs).filterLen = s.filterLen := (rfl)
@[simp] theorem State.transmit_result (bs : List Byte) (s : State) :
    (s.transmit bs).result = s.result := (rfl)
@[simp] theorem State.transmit_crcAcc (bs : List Byte) (s : State) :
    (s.transmit bs).crcAcc = s.crcAcc := (rfl)
@[simp] theorem State.transmit_crcOut (bs : List Byte) (s : State) :
    (s.transmit bs).crcOut = s.crcOut := (rfl)
@[simp] theorem State.transmit_seedCount (bs : List Byte) (s : State) :
    (s.transmit bs).seedCount = s.seedCount := (rfl)
@[simp] theorem State.transmit_rngCount (bs : List Byte) (s : State) :
    (s.transmit bs).rngCount = s.rngCount := (rfl)
@[simp] theorem State.transmit_diagCount (bs : List Byte) (s : State) :
    (s.transmit bs).diagCount = s.diagCount := (rfl)
@[simp] theorem State.transmit_lastDiag (bs : List Byte) (s : State) :
    (s.transmit bs).lastDiag = s.lastDiag := (rfl)
@[simp] theorem State.transmit_mem (bs : List Byte) (s : State) :
    (s.transmit bs).mem = Memory.writeBytes s.mem txBase (pad64 bs) := (rfl)
@[simp] theorem State.transmit_opl (bs : List Byte) (s : State) : (s.transmit bs).opl = s.opl := (rfl)
@[simp] theorem State.transmit_al (bs : List Byte) (s : State) : (s.transmit bs).al = s.al := (rfl)
@[simp] theorem State.transmit_bl (bs : List Byte) (s : State) : (s.transmit bs).bl = s.bl := (rfl)
@[simp] theorem State.transmit_cl (bs : List Byte) (s : State) : (s.transmit bs).cl = s.cl := (rfl)
@[simp] theorem State.transmit_phase (bs : List Byte) (s : State) : (s.transmit bs).phase = s.phase := (rfl)
@[simp] theorem State.transmit_att (bs : List Byte) (s : State) : (s.transmit bs).att = s.att := (rfl)
@[simp] theorem State.transmit_cancelReq (bs : List Byte) (s : State) :
    (s.transmit bs).cancelReq = s.cancelReq := (rfl)
@[simp] theorem State.transmit_chunk (bs : List Byte) (s : State) : (s.transmit bs).chunk = s.chunk := (rfl)
@[simp] theorem State.transmit_chunkN (bs : List Byte) (s : State) :
    (s.transmit bs).chunkN = s.chunkN := (rfl)
@[simp] theorem State.transmit_session (bs : List Byte) (s : State) :
    (s.transmit bs).session = s.session := (rfl)
@[simp] theorem State.transmit_outLog (bs : List Byte) (s : State) :
    (s.transmit bs).outLog = s.outLog := (rfl)
@[simp] theorem State.transmit_linkLog (bs : List Byte) (s : State) :
    (s.transmit bs).linkLog = s.linkLog ++ [.tx (pad64 bs) (txAnswer s)] := (rfl)
@[simp] theorem State.transmit_params (bs : List Byte) (s : State) :
    (s.transmit bs).params = s.params := (rfl)
@[simp] theorem State.transmit_env (bs : List Byte) (s : State) :
    (s.transmit bs).env = { s.env with tx := s.env.tx.tail } := (rfl)
@[simp] theorem State.transmit_freeCount (bs : List Byte) (s : State) :
    (s.transmit bs).freeCount = s.freeCount + freeStep s.env.tx := (rfl)
@[simp] theorem State.transmit_sched (bs : List Byte) (s : State) : (s.transmit bs).sched = s.sched := (rfl)
@[simp] theorem State.transmit_rdata (bs : List Byte) (s : State) : (s.transmit bs).rdata = s.rdata := (rfl)

/-! ## awaitFor -/

@[simp] theorem State.awaitFor_opc (t : Timeout) (s : State) : (s.awaitFor t).opc = s.opc := (rfl)
@[simp] theorem State.awaitFor_argA (t : Timeout) (s : State) : (s.awaitFor t).argA = s.argA := (rfl)
@[simp] theorem State.awaitFor_argB (t : Timeout) (s : State) : (s.awaitFor t).argB = s.argB := (rfl)
@[simp] theorem State.awaitFor_argC (t : Timeout) (s : State) : (s.awaitFor t).argC = s.argC := (rfl)
@[simp] theorem State.awaitFor_status (t : Timeout) (s : State) : (s.awaitFor t).status = s.status := (rfl)
@[simp] theorem State.awaitFor_errCode (t : Timeout) (s : State) : (s.awaitFor t).errCode = s.errCode := (rfl)
@[simp] theorem State.awaitFor_errStep (t : Timeout) (s : State) : (s.awaitFor t).errStep = s.errStep := (rfl)
@[simp] theorem State.awaitFor_seqStep (t : Timeout) (s : State) : (s.awaitFor t).seqStep = s.seqStep := (rfl)
@[simp] theorem State.awaitFor_tries (t : Timeout) (s : State) : (s.awaitFor t).tries = s.tries := (rfl)
@[simp] theorem State.awaitFor_rxLen (t : Timeout) (s : State) : (s.awaitFor t).rxLen = s.rxLen := (rfl)
@[simp] theorem State.awaitFor_txLen (t : Timeout) (s : State) : (s.awaitFor t).txLen = s.txLen := (rfl)
@[simp] theorem State.awaitFor_serialLen (t : Timeout) (s : State) :
    (s.awaitFor t).serialLen = s.serialLen := (rfl)
@[simp] theorem State.awaitFor_keyFlags (t : Timeout) (s : State) :
    (s.awaitFor t).keyFlags = s.keyFlags := (rfl)
@[simp] theorem State.awaitFor_wkeyLen (t : Timeout) (s : State) : (s.awaitFor t).wkeyLen = s.wkeyLen := (rfl)
@[simp] theorem State.awaitFor_rkeyLen (t : Timeout) (s : State) : (s.awaitFor t).rkeyLen = s.rkeyLen := (rfl)
@[simp] theorem State.awaitFor_attkeyLen (t : Timeout) (s : State) :
    (s.awaitFor t).attkeyLen = s.attkeyLen := (rfl)
@[simp] theorem State.awaitFor_filterLen (t : Timeout) (s : State) :
    (s.awaitFor t).filterLen = s.filterLen := (rfl)
@[simp] theorem State.awaitFor_result (t : Timeout) (s : State) : (s.awaitFor t).result = s.result := (rfl)
@[simp] theorem State.awaitFor_crcAcc (t : Timeout) (s : State) : (s.awaitFor t).crcAcc = s.crcAcc := (rfl)
@[simp] theorem State.awaitFor_crcOut (t : Timeout) (s : State) : (s.awaitFor t).crcOut = s.crcOut := (rfl)
@[simp] theorem State.awaitFor_seedCount (t : Timeout) (s : State) :
    (s.awaitFor t).seedCount = s.seedCount := (rfl)
@[simp] theorem State.awaitFor_rngCount (t : Timeout) (s : State) :
    (s.awaitFor t).rngCount = s.rngCount := (rfl)
@[simp] theorem State.awaitFor_diagCount (t : Timeout) (s : State) :
    (s.awaitFor t).diagCount = s.diagCount := (rfl)
@[simp] theorem State.awaitFor_lastDiag (t : Timeout) (s : State) :
    (s.awaitFor t).lastDiag = s.lastDiag := (rfl)
@[simp] theorem State.awaitFor_mem (t : Timeout) (s : State) : (s.awaitFor t).mem = s.mem := (rfl)
@[simp] theorem State.awaitFor_opl (t : Timeout) (s : State) : (s.awaitFor t).opl = s.opl := (rfl)
@[simp] theorem State.awaitFor_al (t : Timeout) (s : State) : (s.awaitFor t).al = s.al := (rfl)
@[simp] theorem State.awaitFor_bl (t : Timeout) (s : State) : (s.awaitFor t).bl = s.bl := (rfl)
@[simp] theorem State.awaitFor_cl (t : Timeout) (s : State) : (s.awaitFor t).cl = s.cl := (rfl)
@[simp] theorem State.awaitFor_phase (t : Timeout) (s : State) :
    (s.awaitFor t).phase = .await t .afterAwait := (rfl)
@[simp] theorem State.awaitFor_att (t : Timeout) (s : State) : (s.awaitFor t).att = s.att := (rfl)
@[simp] theorem State.awaitFor_cancelReq (t : Timeout) (s : State) :
    (s.awaitFor t).cancelReq = s.cancelReq := (rfl)
@[simp] theorem State.awaitFor_chunk (t : Timeout) (s : State) : (s.awaitFor t).chunk = s.chunk := (rfl)
@[simp] theorem State.awaitFor_chunkN (t : Timeout) (s : State) : (s.awaitFor t).chunkN = s.chunkN := (rfl)
@[simp] theorem State.awaitFor_session (t : Timeout) (s : State) : (s.awaitFor t).session = s.session := (rfl)
@[simp] theorem State.awaitFor_outLog (t : Timeout) (s : State) : (s.awaitFor t).outLog = s.outLog := (rfl)
@[simp] theorem State.awaitFor_linkLog (t : Timeout) (s : State) : (s.awaitFor t).linkLog = s.linkLog := (rfl)
@[simp] theorem State.awaitFor_params (t : Timeout) (s : State) : (s.awaitFor t).params = s.params := (rfl)
@[simp] theorem State.awaitFor_env (t : Timeout) (s : State) : (s.awaitFor t).env = s.env := (rfl)
@[simp] theorem State.awaitFor_freeCount (t : Timeout) (s : State) :
    (s.awaitFor t).freeCount = s.freeCount := (rfl)
@[simp] theorem State.awaitFor_sched (t : Timeout) (s : State) : (s.awaitFor t).sched = s.sched := (rfl)
@[simp] theorem State.awaitFor_rdata (t : Timeout) (s : State) : (s.awaitFor t).rdata = s.rdata := (rfl)

/-! ## attempt -/

@[simp] theorem State.attempt_opc (a : Byte) (s : State) : (s.attempt a).opc = s.opc := (rfl)
@[simp] theorem State.attempt_argA (a : Byte) (s : State) : (s.attempt a).argA = s.argA := (rfl)
@[simp] theorem State.attempt_argB (a : Byte) (s : State) : (s.attempt a).argB = s.argB := (rfl)
@[simp] theorem State.attempt_argC (a : Byte) (s : State) : (s.attempt a).argC = s.argC := (rfl)
@[simp] theorem State.attempt_status (a : Byte) (s : State) : (s.attempt a).status = s.status := (rfl)
@[simp] theorem State.attempt_errCode (a : Byte) (s : State) : (s.attempt a).errCode = s.errCode := (rfl)
@[simp] theorem State.attempt_errStep (a : Byte) (s : State) : (s.attempt a).errStep = s.errStep := (rfl)
@[simp] theorem State.attempt_seqStep (a : Byte) (s : State) : (s.attempt a).seqStep = s.seqStep := (rfl)
@[simp] theorem State.attempt_tries (a : Byte) (s : State) : (s.attempt a).tries = a := (rfl)
@[simp] theorem State.attempt_rxLen (a : Byte) (s : State) : (s.attempt a).rxLen = s.rxLen := (rfl)
@[simp] theorem State.attempt_txLen (a : Byte) (s : State) : (s.attempt a).txLen = s.txLen := (rfl)
@[simp] theorem State.attempt_serialLen (a : Byte) (s : State) :
    (s.attempt a).serialLen = s.serialLen := (rfl)
@[simp] theorem State.attempt_keyFlags (a : Byte) (s : State) : (s.attempt a).keyFlags = s.keyFlags := (rfl)
@[simp] theorem State.attempt_wkeyLen (a : Byte) (s : State) : (s.attempt a).wkeyLen = s.wkeyLen := (rfl)
@[simp] theorem State.attempt_rkeyLen (a : Byte) (s : State) : (s.attempt a).rkeyLen = s.rkeyLen := (rfl)
@[simp] theorem State.attempt_attkeyLen (a : Byte) (s : State) :
    (s.attempt a).attkeyLen = s.attkeyLen := (rfl)
@[simp] theorem State.attempt_filterLen (a : Byte) (s : State) :
    (s.attempt a).filterLen = s.filterLen := (rfl)
@[simp] theorem State.attempt_result (a : Byte) (s : State) : (s.attempt a).result = s.result := (rfl)
@[simp] theorem State.attempt_crcAcc (a : Byte) (s : State) : (s.attempt a).crcAcc = s.crcAcc := (rfl)
@[simp] theorem State.attempt_crcOut (a : Byte) (s : State) : (s.attempt a).crcOut = s.crcOut := (rfl)
@[simp] theorem State.attempt_seedCount (a : Byte) (s : State) :
    (s.attempt a).seedCount = s.seedCount := (rfl)
@[simp] theorem State.attempt_rngCount (a : Byte) (s : State) : (s.attempt a).rngCount = s.rngCount := (rfl)
@[simp] theorem State.attempt_diagCount (a : Byte) (s : State) :
    (s.attempt a).diagCount = s.diagCount := (rfl)
@[simp] theorem State.attempt_lastDiag (a : Byte) (s : State) : (s.attempt a).lastDiag = s.lastDiag := (rfl)
@[simp] theorem State.attempt_mem (a : Byte) (s : State) : (s.attempt a).mem = s.mem := (rfl)
@[simp] theorem State.attempt_opl (a : Byte) (s : State) : (s.attempt a).opl = s.opl := (rfl)
@[simp] theorem State.attempt_al (a : Byte) (s : State) : (s.attempt a).al = s.al := (rfl)
@[simp] theorem State.attempt_bl (a : Byte) (s : State) : (s.attempt a).bl = s.bl := (rfl)
@[simp] theorem State.attempt_cl (a : Byte) (s : State) : (s.attempt a).cl = s.cl := (rfl)
@[simp] theorem State.attempt_phase (a : Byte) (s : State) :
    (s.attempt a).phase = .await .cfg .afterAwait := (rfl)
@[simp] theorem State.attempt_att (a : Byte) (s : State) : (s.attempt a).att = a := (rfl)
@[simp] theorem State.attempt_cancelReq (a : Byte) (s : State) :
    (s.attempt a).cancelReq = s.cancelReq := (rfl)
@[simp] theorem State.attempt_chunk (a : Byte) (s : State) : (s.attempt a).chunk = s.chunk := (rfl)
@[simp] theorem State.attempt_chunkN (a : Byte) (s : State) : (s.attempt a).chunkN = s.chunkN := (rfl)
@[simp] theorem State.attempt_session (a : Byte) (s : State) : (s.attempt a).session = s.session := (rfl)
@[simp] theorem State.attempt_outLog (a : Byte) (s : State) : (s.attempt a).outLog = s.outLog := (rfl)
@[simp] theorem State.attempt_linkLog (a : Byte) (s : State) : (s.attempt a).linkLog = s.linkLog := (rfl)
@[simp] theorem State.attempt_params (a : Byte) (s : State) : (s.attempt a).params = s.params := (rfl)
@[simp] theorem State.attempt_env (a : Byte) (s : State) : (s.attempt a).env = s.env := (rfl)
@[simp] theorem State.attempt_freeCount (a : Byte) (s : State) :
    (s.attempt a).freeCount = s.freeCount := (rfl)
@[simp] theorem State.attempt_sched (a : Byte) (s : State) : (s.attempt a).sched = s.sched := (rfl)
@[simp] theorem State.attempt_rdata (a : Byte) (s : State) : (s.attempt a).rdata = s.rdata := (rfl)

/-! ## capture -/

@[simp] theorem State.capture_opc (o : RxOutcome) (s : State) : (s.capture o).opc = s.opc := (rfl)
@[simp] theorem State.capture_argA (o : RxOutcome) (s : State) : (s.capture o).argA = s.argA := (rfl)
@[simp] theorem State.capture_argB (o : RxOutcome) (s : State) : (s.capture o).argB = s.argB := (rfl)
@[simp] theorem State.capture_argC (o : RxOutcome) (s : State) : (s.capture o).argC = s.argC := (rfl)
@[simp] theorem State.capture_status (o : RxOutcome) (s : State) :
    (s.capture o).status = { s.status with tmo := tmoOf o } := (rfl)
@[simp] theorem State.capture_errCode (o : RxOutcome) (s : State) : (s.capture o).errCode = s.errCode := (rfl)
@[simp] theorem State.capture_errStep (o : RxOutcome) (s : State) : (s.capture o).errStep = s.errStep := (rfl)
@[simp] theorem State.capture_seqStep (o : RxOutcome) (s : State) : (s.capture o).seqStep = s.seqStep := (rfl)
@[simp] theorem State.capture_tries (o : RxOutcome) (s : State) : (s.capture o).tries = s.tries := (rfl)
@[simp] theorem State.capture_rxLen (o : RxOutcome) (s : State) :
    (s.capture o).rxLen = BitVec.ofNat 8 (responseBytes o).length := (rfl)
@[simp] theorem State.capture_txLen (o : RxOutcome) (s : State) : (s.capture o).txLen = s.txLen := (rfl)
@[simp] theorem State.capture_serialLen (o : RxOutcome) (s : State) :
    (s.capture o).serialLen = s.serialLen := (rfl)
@[simp] theorem State.capture_keyFlags (o : RxOutcome) (s : State) :
    (s.capture o).keyFlags = s.keyFlags := (rfl)
@[simp] theorem State.capture_wkeyLen (o : RxOutcome) (s : State) : (s.capture o).wkeyLen = s.wkeyLen := (rfl)
@[simp] theorem State.capture_rkeyLen (o : RxOutcome) (s : State) : (s.capture o).rkeyLen = s.rkeyLen := (rfl)
@[simp] theorem State.capture_attkeyLen (o : RxOutcome) (s : State) :
    (s.capture o).attkeyLen = s.attkeyLen := (rfl)
@[simp] theorem State.capture_filterLen (o : RxOutcome) (s : State) :
    (s.capture o).filterLen = s.filterLen := (rfl)
@[simp] theorem State.capture_result (o : RxOutcome) (s : State) : (s.capture o).result = resultOf o := (rfl)
@[simp] theorem State.capture_crcAcc (o : RxOutcome) (s : State) : (s.capture o).crcAcc = s.crcAcc := (rfl)
@[simp] theorem State.capture_crcOut (o : RxOutcome) (s : State) : (s.capture o).crcOut = s.crcOut := (rfl)
@[simp] theorem State.capture_seedCount (o : RxOutcome) (s : State) :
    (s.capture o).seedCount = s.seedCount := (rfl)
@[simp] theorem State.capture_rngCount (o : RxOutcome) (s : State) :
    (s.capture o).rngCount = s.rngCount := (rfl)
@[simp] theorem State.capture_diagCount (o : RxOutcome) (s : State) :
    (s.capture o).diagCount = s.diagCount := (rfl)
@[simp] theorem State.capture_lastDiag (o : RxOutcome) (s : State) :
    (s.capture o).lastDiag = s.lastDiag := (rfl)
@[simp] theorem State.capture_mem (o : RxOutcome) (s : State) :
    (s.capture o).mem = Memory.writeBytes s.mem rxBase (pad64 (responseBytes o)) := (rfl)
@[simp] theorem State.capture_opl (o : RxOutcome) (s : State) : (s.capture o).opl = s.opl := (rfl)
@[simp] theorem State.capture_al (o : RxOutcome) (s : State) : (s.capture o).al = s.al := (rfl)
@[simp] theorem State.capture_bl (o : RxOutcome) (s : State) : (s.capture o).bl = s.bl := (rfl)
@[simp] theorem State.capture_cl (o : RxOutcome) (s : State) : (s.capture o).cl = s.cl := (rfl)
@[simp] theorem State.capture_phase (o : RxOutcome) (s : State) : (s.capture o).phase = s.phase := (rfl)
@[simp] theorem State.capture_att (o : RxOutcome) (s : State) : (s.capture o).att = s.att := (rfl)
@[simp] theorem State.capture_cancelReq (o : RxOutcome) (s : State) :
    (s.capture o).cancelReq = s.cancelReq := (rfl)
@[simp] theorem State.capture_chunk (o : RxOutcome) (s : State) : (s.capture o).chunk = s.chunk := (rfl)
@[simp] theorem State.capture_chunkN (o : RxOutcome) (s : State) : (s.capture o).chunkN = s.chunkN := (rfl)
@[simp] theorem State.capture_session (o : RxOutcome) (s : State) : (s.capture o).session = s.session := (rfl)
@[simp] theorem State.capture_outLog (o : RxOutcome) (s : State) : (s.capture o).outLog = s.outLog := (rfl)
@[simp] theorem State.capture_linkLog (o : RxOutcome) (s : State) : (s.capture o).linkLog = s.linkLog := (rfl)
@[simp] theorem State.capture_params (o : RxOutcome) (s : State) : (s.capture o).params = s.params := (rfl)
@[simp] theorem State.capture_env (o : RxOutcome) (s : State) : (s.capture o).env = s.env := (rfl)
@[simp] theorem State.capture_freeCount (o : RxOutcome) (s : State) :
    (s.capture o).freeCount = s.freeCount := (rfl)
@[simp] theorem State.capture_sched (o : RxOutcome) (s : State) : (s.capture o).sched = s.sched := (rfl)
@[simp] theorem State.capture_rdata (o : RxOutcome) (s : State) : (s.capture o).rdata = s.rdata := (rfl)

/-! ## receive -/

@[simp] theorem State.receive_opc (o : RxOutcome) (s : State) : (s.receive o).opc = s.opc := (rfl)
@[simp] theorem State.receive_argA (o : RxOutcome) (s : State) : (s.receive o).argA = s.argA := (rfl)
@[simp] theorem State.receive_argB (o : RxOutcome) (s : State) : (s.receive o).argB = s.argB := (rfl)
@[simp] theorem State.receive_argC (o : RxOutcome) (s : State) : (s.receive o).argC = s.argC := (rfl)
@[simp] theorem State.receive_status (o : RxOutcome) (s : State) :
    (s.receive o).status = { s.status with tmo := tmoOf o } := (rfl)
@[simp] theorem State.receive_errCode (o : RxOutcome) (s : State) : (s.receive o).errCode = s.errCode := (rfl)
@[simp] theorem State.receive_errStep (o : RxOutcome) (s : State) : (s.receive o).errStep = s.errStep := (rfl)
@[simp] theorem State.receive_seqStep (o : RxOutcome) (s : State) : (s.receive o).seqStep = s.seqStep := (rfl)
@[simp] theorem State.receive_tries (o : RxOutcome) (s : State) : (s.receive o).tries = s.tries := (rfl)
@[simp] theorem State.receive_rxLen (o : RxOutcome) (s : State) :
    (s.receive o).rxLen = BitVec.ofNat 8 (responseBytes o).length := (rfl)
@[simp] theorem State.receive_txLen (o : RxOutcome) (s : State) : (s.receive o).txLen = s.txLen := (rfl)
@[simp] theorem State.receive_serialLen (o : RxOutcome) (s : State) :
    (s.receive o).serialLen = s.serialLen := (rfl)
@[simp] theorem State.receive_keyFlags (o : RxOutcome) (s : State) :
    (s.receive o).keyFlags = s.keyFlags := (rfl)
@[simp] theorem State.receive_wkeyLen (o : RxOutcome) (s : State) : (s.receive o).wkeyLen = s.wkeyLen := (rfl)
@[simp] theorem State.receive_rkeyLen (o : RxOutcome) (s : State) : (s.receive o).rkeyLen = s.rkeyLen := (rfl)
@[simp] theorem State.receive_attkeyLen (o : RxOutcome) (s : State) :
    (s.receive o).attkeyLen = s.attkeyLen := (rfl)
@[simp] theorem State.receive_filterLen (o : RxOutcome) (s : State) :
    (s.receive o).filterLen = s.filterLen := (rfl)
@[simp] theorem State.receive_result (o : RxOutcome) (s : State) : (s.receive o).result = resultOf o := (rfl)
@[simp] theorem State.receive_crcAcc (o : RxOutcome) (s : State) : (s.receive o).crcAcc = s.crcAcc := (rfl)
@[simp] theorem State.receive_crcOut (o : RxOutcome) (s : State) : (s.receive o).crcOut = s.crcOut := (rfl)
@[simp] theorem State.receive_seedCount (o : RxOutcome) (s : State) :
    (s.receive o).seedCount = s.seedCount := (rfl)
@[simp] theorem State.receive_rngCount (o : RxOutcome) (s : State) :
    (s.receive o).rngCount = s.rngCount := (rfl)
@[simp] theorem State.receive_diagCount (o : RxOutcome) (s : State) :
    (s.receive o).diagCount = s.diagCount := (rfl)
@[simp] theorem State.receive_lastDiag (o : RxOutcome) (s : State) :
    (s.receive o).lastDiag = s.lastDiag := (rfl)
@[simp] theorem State.receive_mem (o : RxOutcome) (s : State) :
    (s.receive o).mem = Memory.writeBytes s.mem rxBase (pad64 (responseBytes o)) := (rfl)
@[simp] theorem State.receive_opl (o : RxOutcome) (s : State) : (s.receive o).opl = s.opl := (rfl)
@[simp] theorem State.receive_al (o : RxOutcome) (s : State) : (s.receive o).al = s.al := (rfl)
@[simp] theorem State.receive_bl (o : RxOutcome) (s : State) : (s.receive o).bl = s.bl := (rfl)
@[simp] theorem State.receive_cl (o : RxOutcome) (s : State) : (s.receive o).cl = s.cl := (rfl)
@[simp] theorem State.receive_phase (o : RxOutcome) (s : State) : (s.receive o).phase = s.phase := (rfl)
@[simp] theorem State.receive_att (o : RxOutcome) (s : State) : (s.receive o).att = s.att := (rfl)
@[simp] theorem State.receive_cancelReq (o : RxOutcome) (s : State) :
    (s.receive o).cancelReq = s.cancelReq := (rfl)
@[simp] theorem State.receive_chunk (o : RxOutcome) (s : State) : (s.receive o).chunk = s.chunk := (rfl)
@[simp] theorem State.receive_chunkN (o : RxOutcome) (s : State) : (s.receive o).chunkN = s.chunkN := (rfl)
@[simp] theorem State.receive_session (o : RxOutcome) (s : State) : (s.receive o).session = s.session := (rfl)
@[simp] theorem State.receive_outLog (o : RxOutcome) (s : State) : (s.receive o).outLog = s.outLog := (rfl)
@[simp] theorem State.receive_linkLog (o : RxOutcome) (s : State) :
    (s.receive o).linkLog = s.linkLog ++ [.rx o] := (rfl)
@[simp] theorem State.receive_params (o : RxOutcome) (s : State) : (s.receive o).params = s.params := (rfl)
@[simp] theorem State.receive_env (o : RxOutcome) (s : State) :
    (s.receive o).env = { s.env with rx := s.env.rx.tail } := (rfl)
@[simp] theorem State.receive_freeCount (o : RxOutcome) (s : State) :
    (s.receive o).freeCount = s.freeCount + freeStep s.env.rx := (rfl)
@[simp] theorem State.receive_sched (o : RxOutcome) (s : State) : (s.receive o).sched = s.sched := (rfl)
@[simp] theorem State.receive_rdata (o : RxOutcome) (s : State) : (s.receive o).rdata = s.rdata := (rfl)

/-! ## enterStep -/

@[simp] theorem State.enterStep_opc (k : Byte) (s : State) : (s.enterStep k).opc = s.opc := (rfl)
@[simp] theorem State.enterStep_argA (k : Byte) (s : State) : (s.enterStep k).argA = s.argA := (rfl)
@[simp] theorem State.enterStep_argB (k : Byte) (s : State) : (s.enterStep k).argB = s.argB := (rfl)
@[simp] theorem State.enterStep_argC (k : Byte) (s : State) : (s.enterStep k).argC = s.argC := (rfl)
@[simp] theorem State.enterStep_status (k : Byte) (s : State) : (s.enterStep k).status = s.status := (rfl)
@[simp] theorem State.enterStep_errCode (k : Byte) (s : State) : (s.enterStep k).errCode = s.errCode := (rfl)
@[simp] theorem State.enterStep_errStep (k : Byte) (s : State) : (s.enterStep k).errStep = s.errStep := (rfl)
@[simp] theorem State.enterStep_seqStep (k : Byte) (s : State) : (s.enterStep k).seqStep = k := (rfl)
@[simp] theorem State.enterStep_tries (k : Byte) (s : State) : (s.enterStep k).tries = s.tries := (rfl)
@[simp] theorem State.enterStep_rxLen (k : Byte) (s : State) : (s.enterStep k).rxLen = s.rxLen := (rfl)
@[simp] theorem State.enterStep_txLen (k : Byte) (s : State) : (s.enterStep k).txLen = s.txLen := (rfl)
@[simp] theorem State.enterStep_serialLen (k : Byte) (s : State) :
    (s.enterStep k).serialLen = s.serialLen := (rfl)
@[simp] theorem State.enterStep_keyFlags (k : Byte) (s : State) :
    (s.enterStep k).keyFlags = s.keyFlags := (rfl)
@[simp] theorem State.enterStep_wkeyLen (k : Byte) (s : State) : (s.enterStep k).wkeyLen = s.wkeyLen := (rfl)
@[simp] theorem State.enterStep_rkeyLen (k : Byte) (s : State) : (s.enterStep k).rkeyLen = s.rkeyLen := (rfl)
@[simp] theorem State.enterStep_attkeyLen (k : Byte) (s : State) :
    (s.enterStep k).attkeyLen = s.attkeyLen := (rfl)
@[simp] theorem State.enterStep_filterLen (k : Byte) (s : State) :
    (s.enterStep k).filterLen = s.filterLen := (rfl)
@[simp] theorem State.enterStep_result (k : Byte) (s : State) : (s.enterStep k).result = s.result := (rfl)
@[simp] theorem State.enterStep_crcAcc (k : Byte) (s : State) : (s.enterStep k).crcAcc = s.crcAcc := (rfl)
@[simp] theorem State.enterStep_crcOut (k : Byte) (s : State) : (s.enterStep k).crcOut = s.crcOut := (rfl)
@[simp] theorem State.enterStep_seedCount (k : Byte) (s : State) :
    (s.enterStep k).seedCount = s.seedCount := (rfl)
@[simp] theorem State.enterStep_rngCount (k : Byte) (s : State) :
    (s.enterStep k).rngCount = s.rngCount := (rfl)
@[simp] theorem State.enterStep_diagCount (k : Byte) (s : State) :
    (s.enterStep k).diagCount = s.diagCount := (rfl)
@[simp] theorem State.enterStep_lastDiag (k : Byte) (s : State) :
    (s.enterStep k).lastDiag = s.lastDiag := (rfl)
@[simp] theorem State.enterStep_mem (k : Byte) (s : State) : (s.enterStep k).mem = s.mem := (rfl)
@[simp] theorem State.enterStep_opl (k : Byte) (s : State) : (s.enterStep k).opl = s.opl := (rfl)
@[simp] theorem State.enterStep_al (k : Byte) (s : State) : (s.enterStep k).al = s.al := (rfl)
@[simp] theorem State.enterStep_bl (k : Byte) (s : State) : (s.enterStep k).bl = s.bl := (rfl)
@[simp] theorem State.enterStep_cl (k : Byte) (s : State) : (s.enterStep k).cl = s.cl := (rfl)
@[simp] theorem State.enterStep_phase (k : Byte) (s : State) : (s.enterStep k).phase = s.phase := (rfl)
@[simp] theorem State.enterStep_att (k : Byte) (s : State) : (s.enterStep k).att = s.att := (rfl)
@[simp] theorem State.enterStep_cancelReq (k : Byte) (s : State) :
    (s.enterStep k).cancelReq = s.cancelReq := (rfl)
@[simp] theorem State.enterStep_chunk (k : Byte) (s : State) : (s.enterStep k).chunk = s.chunk := (rfl)
@[simp] theorem State.enterStep_chunkN (k : Byte) (s : State) : (s.enterStep k).chunkN = s.chunkN := (rfl)
@[simp] theorem State.enterStep_session (k : Byte) (s : State) : (s.enterStep k).session = s.session := (rfl)
@[simp] theorem State.enterStep_outLog (k : Byte) (s : State) : (s.enterStep k).outLog = s.outLog := (rfl)
@[simp] theorem State.enterStep_linkLog (k : Byte) (s : State) : (s.enterStep k).linkLog = s.linkLog := (rfl)
@[simp] theorem State.enterStep_params (k : Byte) (s : State) : (s.enterStep k).params = s.params := (rfl)
@[simp] theorem State.enterStep_env (k : Byte) (s : State) : (s.enterStep k).env = s.env := (rfl)
@[simp] theorem State.enterStep_freeCount (k : Byte) (s : State) :
    (s.enterStep k).freeCount = s.freeCount := (rfl)
@[simp] theorem State.enterStep_sched (k : Byte) (s : State) : (s.enterStep k).sched = s.sched := (rfl)
@[simp] theorem State.enterStep_rdata (k : Byte) (s : State) : (s.enterStep k).rdata = s.rdata := (rfl)

/-! ## clearCancel -/

@[simp] theorem State.clearCancel_opc (s : State) : (s.clearCancel).opc = s.opc := (rfl)
@[simp] theorem State.clearCancel_argA (s : State) : (s.clearCancel).argA = s.argA := (rfl)
@[simp] theorem State.clearCancel_argB (s : State) : (s.clearCancel).argB = s.argB := (rfl)
@[simp] theorem State.clearCancel_argC (s : State) : (s.clearCancel).argC = s.argC := (rfl)
@[simp] theorem State.clearCancel_status (s : State) : (s.clearCancel).status = s.status := (rfl)
@[simp] theorem State.clearCancel_errCode (s : State) : (s.clearCancel).errCode = s.errCode := (rfl)
@[simp] theorem State.clearCancel_errStep (s : State) : (s.clearCancel).errStep = s.errStep := (rfl)
@[simp] theorem State.clearCancel_seqStep (s : State) : (s.clearCancel).seqStep = s.seqStep := (rfl)
@[simp] theorem State.clearCancel_tries (s : State) : (s.clearCancel).tries = s.tries := (rfl)
@[simp] theorem State.clearCancel_rxLen (s : State) : (s.clearCancel).rxLen = s.rxLen := (rfl)
@[simp] theorem State.clearCancel_txLen (s : State) : (s.clearCancel).txLen = s.txLen := (rfl)
@[simp] theorem State.clearCancel_serialLen (s : State) : (s.clearCancel).serialLen = s.serialLen := (rfl)
@[simp] theorem State.clearCancel_keyFlags (s : State) : (s.clearCancel).keyFlags = s.keyFlags := (rfl)
@[simp] theorem State.clearCancel_wkeyLen (s : State) : (s.clearCancel).wkeyLen = s.wkeyLen := (rfl)
@[simp] theorem State.clearCancel_rkeyLen (s : State) : (s.clearCancel).rkeyLen = s.rkeyLen := (rfl)
@[simp] theorem State.clearCancel_attkeyLen (s : State) : (s.clearCancel).attkeyLen = s.attkeyLen := (rfl)
@[simp] theorem State.clearCancel_filterLen (s : State) : (s.clearCancel).filterLen = s.filterLen := (rfl)
@[simp] theorem State.clearCancel_result (s : State) : (s.clearCancel).result = s.result := (rfl)
@[simp] theorem State.clearCancel_crcAcc (s : State) : (s.clearCancel).crcAcc = s.crcAcc := (rfl)
@[simp] theorem State.clearCancel_crcOut (s : State) : (s.clearCancel).crcOut = s.crcOut := (rfl)
@[simp] theorem State.clearCancel_seedCount (s : State) : (s.clearCancel).seedCount = s.seedCount := (rfl)
@[simp] theorem State.clearCancel_rngCount (s : State) : (s.clearCancel).rngCount = s.rngCount := (rfl)
@[simp] theorem State.clearCancel_diagCount (s : State) : (s.clearCancel).diagCount = s.diagCount := (rfl)
@[simp] theorem State.clearCancel_lastDiag (s : State) : (s.clearCancel).lastDiag = s.lastDiag := (rfl)
@[simp] theorem State.clearCancel_mem (s : State) : (s.clearCancel).mem = s.mem := (rfl)
@[simp] theorem State.clearCancel_opl (s : State) : (s.clearCancel).opl = s.opl := (rfl)
@[simp] theorem State.clearCancel_al (s : State) : (s.clearCancel).al = s.al := (rfl)
@[simp] theorem State.clearCancel_bl (s : State) : (s.clearCancel).bl = s.bl := (rfl)
@[simp] theorem State.clearCancel_cl (s : State) : (s.clearCancel).cl = s.cl := (rfl)
@[simp] theorem State.clearCancel_phase (s : State) : (s.clearCancel).phase = s.phase := (rfl)
@[simp] theorem State.clearCancel_att (s : State) : (s.clearCancel).att = s.att := (rfl)
@[simp] theorem State.clearCancel_cancelReq (s : State) : (s.clearCancel).cancelReq = false := (rfl)
@[simp] theorem State.clearCancel_chunk (s : State) : (s.clearCancel).chunk = s.chunk := (rfl)
@[simp] theorem State.clearCancel_chunkN (s : State) : (s.clearCancel).chunkN = s.chunkN := (rfl)
@[simp] theorem State.clearCancel_session (s : State) : (s.clearCancel).session = s.session := (rfl)
@[simp] theorem State.clearCancel_outLog (s : State) : (s.clearCancel).outLog = s.outLog := (rfl)
@[simp] theorem State.clearCancel_linkLog (s : State) : (s.clearCancel).linkLog = s.linkLog := (rfl)
@[simp] theorem State.clearCancel_params (s : State) : (s.clearCancel).params = s.params := (rfl)
@[simp] theorem State.clearCancel_env (s : State) : (s.clearCancel).env = s.env := (rfl)
@[simp] theorem State.clearCancel_freeCount (s : State) : (s.clearCancel).freeCount = s.freeCount := (rfl)
@[simp] theorem State.clearCancel_sched (s : State) : (s.clearCancel).sched = s.sched := (rfl)
@[simp] theorem State.clearCancel_rdata (s : State) : (s.clearCancel).rdata = s.rdata := (rfl)

/-! ## setTries -/

@[simp] theorem State.setTries_opc (n : Byte) (s : State) : (s.setTries n).opc = s.opc := (rfl)
@[simp] theorem State.setTries_argA (n : Byte) (s : State) : (s.setTries n).argA = s.argA := (rfl)
@[simp] theorem State.setTries_argB (n : Byte) (s : State) : (s.setTries n).argB = s.argB := (rfl)
@[simp] theorem State.setTries_argC (n : Byte) (s : State) : (s.setTries n).argC = s.argC := (rfl)
@[simp] theorem State.setTries_status (n : Byte) (s : State) : (s.setTries n).status = s.status := (rfl)
@[simp] theorem State.setTries_errCode (n : Byte) (s : State) : (s.setTries n).errCode = s.errCode := (rfl)
@[simp] theorem State.setTries_errStep (n : Byte) (s : State) : (s.setTries n).errStep = s.errStep := (rfl)
@[simp] theorem State.setTries_seqStep (n : Byte) (s : State) : (s.setTries n).seqStep = s.seqStep := (rfl)
@[simp] theorem State.setTries_tries (n : Byte) (s : State) : (s.setTries n).tries = n := (rfl)
@[simp] theorem State.setTries_rxLen (n : Byte) (s : State) : (s.setTries n).rxLen = s.rxLen := (rfl)
@[simp] theorem State.setTries_txLen (n : Byte) (s : State) : (s.setTries n).txLen = s.txLen := (rfl)
@[simp] theorem State.setTries_serialLen (n : Byte) (s : State) :
    (s.setTries n).serialLen = s.serialLen := (rfl)
@[simp] theorem State.setTries_keyFlags (n : Byte) (s : State) : (s.setTries n).keyFlags = s.keyFlags := (rfl)
@[simp] theorem State.setTries_wkeyLen (n : Byte) (s : State) : (s.setTries n).wkeyLen = s.wkeyLen := (rfl)
@[simp] theorem State.setTries_rkeyLen (n : Byte) (s : State) : (s.setTries n).rkeyLen = s.rkeyLen := (rfl)
@[simp] theorem State.setTries_attkeyLen (n : Byte) (s : State) :
    (s.setTries n).attkeyLen = s.attkeyLen := (rfl)
@[simp] theorem State.setTries_filterLen (n : Byte) (s : State) :
    (s.setTries n).filterLen = s.filterLen := (rfl)
@[simp] theorem State.setTries_result (n : Byte) (s : State) : (s.setTries n).result = s.result := (rfl)
@[simp] theorem State.setTries_crcAcc (n : Byte) (s : State) : (s.setTries n).crcAcc = s.crcAcc := (rfl)
@[simp] theorem State.setTries_crcOut (n : Byte) (s : State) : (s.setTries n).crcOut = s.crcOut := (rfl)
@[simp] theorem State.setTries_seedCount (n : Byte) (s : State) :
    (s.setTries n).seedCount = s.seedCount := (rfl)
@[simp] theorem State.setTries_rngCount (n : Byte) (s : State) : (s.setTries n).rngCount = s.rngCount := (rfl)
@[simp] theorem State.setTries_diagCount (n : Byte) (s : State) :
    (s.setTries n).diagCount = s.diagCount := (rfl)
@[simp] theorem State.setTries_lastDiag (n : Byte) (s : State) : (s.setTries n).lastDiag = s.lastDiag := (rfl)
@[simp] theorem State.setTries_mem (n : Byte) (s : State) : (s.setTries n).mem = s.mem := (rfl)
@[simp] theorem State.setTries_opl (n : Byte) (s : State) : (s.setTries n).opl = s.opl := (rfl)
@[simp] theorem State.setTries_al (n : Byte) (s : State) : (s.setTries n).al = s.al := (rfl)
@[simp] theorem State.setTries_bl (n : Byte) (s : State) : (s.setTries n).bl = s.bl := (rfl)
@[simp] theorem State.setTries_cl (n : Byte) (s : State) : (s.setTries n).cl = s.cl := (rfl)
@[simp] theorem State.setTries_phase (n : Byte) (s : State) : (s.setTries n).phase = s.phase := (rfl)
@[simp] theorem State.setTries_att (n : Byte) (s : State) : (s.setTries n).att = s.att := (rfl)
@[simp] theorem State.setTries_cancelReq (n : Byte) (s : State) :
    (s.setTries n).cancelReq = s.cancelReq := (rfl)
@[simp] theorem State.setTries_chunk (n : Byte) (s : State) : (s.setTries n).chunk = s.chunk := (rfl)
@[simp] theorem State.setTries_chunkN (n : Byte) (s : State) : (s.setTries n).chunkN = s.chunkN := (rfl)
@[simp] theorem State.setTries_session (n : Byte) (s : State) : (s.setTries n).session = s.session := (rfl)
@[simp] theorem State.setTries_outLog (n : Byte) (s : State) : (s.setTries n).outLog = s.outLog := (rfl)
@[simp] theorem State.setTries_linkLog (n : Byte) (s : State) : (s.setTries n).linkLog = s.linkLog := (rfl)
@[simp] theorem State.setTries_params (n : Byte) (s : State) : (s.setTries n).params = s.params := (rfl)
@[simp] theorem State.setTries_env (n : Byte) (s : State) : (s.setTries n).env = s.env := (rfl)
@[simp] theorem State.setTries_freeCount (n : Byte) (s : State) :
    (s.setTries n).freeCount = s.freeCount := (rfl)
@[simp] theorem State.setTries_sched (n : Byte) (s : State) : (s.setTries n).sched = s.sched := (rfl)
@[simp] theorem State.setTries_rdata (n : Byte) (s : State) : (s.setTries n).rdata = s.rdata := (rfl)

/-! ## setAttempt -/

@[simp] theorem State.setAttempt_opc (a : Byte) (s : State) : (s.setAttempt a).opc = s.opc := (rfl)
@[simp] theorem State.setAttempt_argA (a : Byte) (s : State) : (s.setAttempt a).argA = s.argA := (rfl)
@[simp] theorem State.setAttempt_argB (a : Byte) (s : State) : (s.setAttempt a).argB = s.argB := (rfl)
@[simp] theorem State.setAttempt_argC (a : Byte) (s : State) : (s.setAttempt a).argC = s.argC := (rfl)
@[simp] theorem State.setAttempt_status (a : Byte) (s : State) : (s.setAttempt a).status = s.status := (rfl)
@[simp] theorem State.setAttempt_errCode (a : Byte) (s : State) :
    (s.setAttempt a).errCode = s.errCode := (rfl)
@[simp] theorem State.setAttempt_errStep (a : Byte) (s : State) :
    (s.setAttempt a).errStep = s.errStep := (rfl)
@[simp] theorem State.setAttempt_seqStep (a : Byte) (s : State) :
    (s.setAttempt a).seqStep = s.seqStep := (rfl)
@[simp] theorem State.setAttempt_tries (a : Byte) (s : State) : (s.setAttempt a).tries = a := (rfl)
@[simp] theorem State.setAttempt_rxLen (a : Byte) (s : State) : (s.setAttempt a).rxLen = s.rxLen := (rfl)
@[simp] theorem State.setAttempt_txLen (a : Byte) (s : State) : (s.setAttempt a).txLen = s.txLen := (rfl)
@[simp] theorem State.setAttempt_serialLen (a : Byte) (s : State) :
    (s.setAttempt a).serialLen = s.serialLen := (rfl)
@[simp] theorem State.setAttempt_keyFlags (a : Byte) (s : State) :
    (s.setAttempt a).keyFlags = s.keyFlags := (rfl)
@[simp] theorem State.setAttempt_wkeyLen (a : Byte) (s : State) :
    (s.setAttempt a).wkeyLen = s.wkeyLen := (rfl)
@[simp] theorem State.setAttempt_rkeyLen (a : Byte) (s : State) :
    (s.setAttempt a).rkeyLen = s.rkeyLen := (rfl)
@[simp] theorem State.setAttempt_attkeyLen (a : Byte) (s : State) :
    (s.setAttempt a).attkeyLen = s.attkeyLen := (rfl)
@[simp] theorem State.setAttempt_filterLen (a : Byte) (s : State) :
    (s.setAttempt a).filterLen = s.filterLen := (rfl)
@[simp] theorem State.setAttempt_result (a : Byte) (s : State) : (s.setAttempt a).result = s.result := (rfl)
@[simp] theorem State.setAttempt_crcAcc (a : Byte) (s : State) : (s.setAttempt a).crcAcc = s.crcAcc := (rfl)
@[simp] theorem State.setAttempt_crcOut (a : Byte) (s : State) : (s.setAttempt a).crcOut = s.crcOut := (rfl)
@[simp] theorem State.setAttempt_seedCount (a : Byte) (s : State) :
    (s.setAttempt a).seedCount = s.seedCount := (rfl)
@[simp] theorem State.setAttempt_rngCount (a : Byte) (s : State) :
    (s.setAttempt a).rngCount = s.rngCount := (rfl)
@[simp] theorem State.setAttempt_diagCount (a : Byte) (s : State) :
    (s.setAttempt a).diagCount = s.diagCount := (rfl)
@[simp] theorem State.setAttempt_lastDiag (a : Byte) (s : State) :
    (s.setAttempt a).lastDiag = s.lastDiag := (rfl)
@[simp] theorem State.setAttempt_mem (a : Byte) (s : State) : (s.setAttempt a).mem = s.mem := (rfl)
@[simp] theorem State.setAttempt_opl (a : Byte) (s : State) : (s.setAttempt a).opl = s.opl := (rfl)
@[simp] theorem State.setAttempt_al (a : Byte) (s : State) : (s.setAttempt a).al = s.al := (rfl)
@[simp] theorem State.setAttempt_bl (a : Byte) (s : State) : (s.setAttempt a).bl = s.bl := (rfl)
@[simp] theorem State.setAttempt_cl (a : Byte) (s : State) : (s.setAttempt a).cl = s.cl := (rfl)
@[simp] theorem State.setAttempt_phase (a : Byte) (s : State) : (s.setAttempt a).phase = s.phase := (rfl)
@[simp] theorem State.setAttempt_att (a : Byte) (s : State) : (s.setAttempt a).att = a := (rfl)
@[simp] theorem State.setAttempt_cancelReq (a : Byte) (s : State) :
    (s.setAttempt a).cancelReq = s.cancelReq := (rfl)
@[simp] theorem State.setAttempt_chunk (a : Byte) (s : State) : (s.setAttempt a).chunk = s.chunk := (rfl)
@[simp] theorem State.setAttempt_chunkN (a : Byte) (s : State) : (s.setAttempt a).chunkN = s.chunkN := (rfl)
@[simp] theorem State.setAttempt_session (a : Byte) (s : State) :
    (s.setAttempt a).session = s.session := (rfl)
@[simp] theorem State.setAttempt_outLog (a : Byte) (s : State) : (s.setAttempt a).outLog = s.outLog := (rfl)
@[simp] theorem State.setAttempt_linkLog (a : Byte) (s : State) :
    (s.setAttempt a).linkLog = s.linkLog := (rfl)
@[simp] theorem State.setAttempt_params (a : Byte) (s : State) : (s.setAttempt a).params = s.params := (rfl)
@[simp] theorem State.setAttempt_env (a : Byte) (s : State) : (s.setAttempt a).env = s.env := (rfl)
@[simp] theorem State.setAttempt_freeCount (a : Byte) (s : State) :
    (s.setAttempt a).freeCount = s.freeCount := (rfl)
@[simp] theorem State.setAttempt_sched (a : Byte) (s : State) : (s.setAttempt a).sched = s.sched := (rfl)
@[simp] theorem State.setAttempt_rdata (a : Byte) (s : State) : (s.setAttempt a).rdata = s.rdata := (rfl)

/-! ## setCrcAcc -/

@[simp] theorem State.setCrcAcc_opc (x : Word16) (s : State) : (s.setCrcAcc x).opc = s.opc := (rfl)
@[simp] theorem State.setCrcAcc_argA (x : Word16) (s : State) : (s.setCrcAcc x).argA = s.argA := (rfl)
@[simp] theorem State.setCrcAcc_argB (x : Word16) (s : State) : (s.setCrcAcc x).argB = s.argB := (rfl)
@[simp] theorem State.setCrcAcc_argC (x : Word16) (s : State) : (s.setCrcAcc x).argC = s.argC := (rfl)
@[simp] theorem State.setCrcAcc_status (x : Word16) (s : State) : (s.setCrcAcc x).status = s.status := (rfl)
@[simp] theorem State.setCrcAcc_errCode (x : Word16) (s : State) :
    (s.setCrcAcc x).errCode = s.errCode := (rfl)
@[simp] theorem State.setCrcAcc_errStep (x : Word16) (s : State) :
    (s.setCrcAcc x).errStep = s.errStep := (rfl)
@[simp] theorem State.setCrcAcc_seqStep (x : Word16) (s : State) :
    (s.setCrcAcc x).seqStep = s.seqStep := (rfl)
@[simp] theorem State.setCrcAcc_tries (x : Word16) (s : State) : (s.setCrcAcc x).tries = s.tries := (rfl)
@[simp] theorem State.setCrcAcc_rxLen (x : Word16) (s : State) : (s.setCrcAcc x).rxLen = s.rxLen := (rfl)
@[simp] theorem State.setCrcAcc_txLen (x : Word16) (s : State) : (s.setCrcAcc x).txLen = s.txLen := (rfl)
@[simp] theorem State.setCrcAcc_serialLen (x : Word16) (s : State) :
    (s.setCrcAcc x).serialLen = s.serialLen := (rfl)
@[simp] theorem State.setCrcAcc_keyFlags (x : Word16) (s : State) :
    (s.setCrcAcc x).keyFlags = s.keyFlags := (rfl)
@[simp] theorem State.setCrcAcc_wkeyLen (x : Word16) (s : State) :
    (s.setCrcAcc x).wkeyLen = s.wkeyLen := (rfl)
@[simp] theorem State.setCrcAcc_rkeyLen (x : Word16) (s : State) :
    (s.setCrcAcc x).rkeyLen = s.rkeyLen := (rfl)
@[simp] theorem State.setCrcAcc_attkeyLen (x : Word16) (s : State) :
    (s.setCrcAcc x).attkeyLen = s.attkeyLen := (rfl)
@[simp] theorem State.setCrcAcc_filterLen (x : Word16) (s : State) :
    (s.setCrcAcc x).filterLen = s.filterLen := (rfl)
@[simp] theorem State.setCrcAcc_result (x : Word16) (s : State) : (s.setCrcAcc x).result = s.result := (rfl)
@[simp] theorem State.setCrcAcc_crcAcc (x : Word16) (s : State) : (s.setCrcAcc x).crcAcc = x := (rfl)
@[simp] theorem State.setCrcAcc_crcOut (x : Word16) (s : State) : (s.setCrcAcc x).crcOut = s.crcOut := (rfl)
@[simp] theorem State.setCrcAcc_seedCount (x : Word16) (s : State) :
    (s.setCrcAcc x).seedCount = s.seedCount := (rfl)
@[simp] theorem State.setCrcAcc_rngCount (x : Word16) (s : State) :
    (s.setCrcAcc x).rngCount = s.rngCount := (rfl)
@[simp] theorem State.setCrcAcc_diagCount (x : Word16) (s : State) :
    (s.setCrcAcc x).diagCount = s.diagCount := (rfl)
@[simp] theorem State.setCrcAcc_lastDiag (x : Word16) (s : State) :
    (s.setCrcAcc x).lastDiag = s.lastDiag := (rfl)
@[simp] theorem State.setCrcAcc_mem (x : Word16) (s : State) : (s.setCrcAcc x).mem = s.mem := (rfl)
@[simp] theorem State.setCrcAcc_opl (x : Word16) (s : State) : (s.setCrcAcc x).opl = s.opl := (rfl)
@[simp] theorem State.setCrcAcc_al (x : Word16) (s : State) : (s.setCrcAcc x).al = s.al := (rfl)
@[simp] theorem State.setCrcAcc_bl (x : Word16) (s : State) : (s.setCrcAcc x).bl = s.bl := (rfl)
@[simp] theorem State.setCrcAcc_cl (x : Word16) (s : State) : (s.setCrcAcc x).cl = s.cl := (rfl)
@[simp] theorem State.setCrcAcc_phase (x : Word16) (s : State) : (s.setCrcAcc x).phase = s.phase := (rfl)
@[simp] theorem State.setCrcAcc_att (x : Word16) (s : State) : (s.setCrcAcc x).att = s.att := (rfl)
@[simp] theorem State.setCrcAcc_cancelReq (x : Word16) (s : State) :
    (s.setCrcAcc x).cancelReq = s.cancelReq := (rfl)
@[simp] theorem State.setCrcAcc_chunk (x : Word16) (s : State) : (s.setCrcAcc x).chunk = s.chunk := (rfl)
@[simp] theorem State.setCrcAcc_chunkN (x : Word16) (s : State) : (s.setCrcAcc x).chunkN = s.chunkN := (rfl)
@[simp] theorem State.setCrcAcc_session (x : Word16) (s : State) :
    (s.setCrcAcc x).session = s.session := (rfl)
@[simp] theorem State.setCrcAcc_outLog (x : Word16) (s : State) : (s.setCrcAcc x).outLog = s.outLog := (rfl)
@[simp] theorem State.setCrcAcc_linkLog (x : Word16) (s : State) :
    (s.setCrcAcc x).linkLog = s.linkLog := (rfl)
@[simp] theorem State.setCrcAcc_params (x : Word16) (s : State) : (s.setCrcAcc x).params = s.params := (rfl)
@[simp] theorem State.setCrcAcc_env (x : Word16) (s : State) : (s.setCrcAcc x).env = s.env := (rfl)
@[simp] theorem State.setCrcAcc_freeCount (x : Word16) (s : State) :
    (s.setCrcAcc x).freeCount = s.freeCount := (rfl)
@[simp] theorem State.setCrcAcc_sched (x : Word16) (s : State) : (s.setCrcAcc x).sched = s.sched := (rfl)
@[simp] theorem State.setCrcAcc_rdata (x : Word16) (s : State) : (s.setCrcAcc x).rdata = s.rdata := (rfl)

/-! ## setCrcOut -/

@[simp] theorem State.setCrcOut_opc (x : Word16) (s : State) : (s.setCrcOut x).opc = s.opc := (rfl)
@[simp] theorem State.setCrcOut_argA (x : Word16) (s : State) : (s.setCrcOut x).argA = s.argA := (rfl)
@[simp] theorem State.setCrcOut_argB (x : Word16) (s : State) : (s.setCrcOut x).argB = s.argB := (rfl)
@[simp] theorem State.setCrcOut_argC (x : Word16) (s : State) : (s.setCrcOut x).argC = s.argC := (rfl)
@[simp] theorem State.setCrcOut_status (x : Word16) (s : State) : (s.setCrcOut x).status = s.status := (rfl)
@[simp] theorem State.setCrcOut_errCode (x : Word16) (s : State) :
    (s.setCrcOut x).errCode = s.errCode := (rfl)
@[simp] theorem State.setCrcOut_errStep (x : Word16) (s : State) :
    (s.setCrcOut x).errStep = s.errStep := (rfl)
@[simp] theorem State.setCrcOut_seqStep (x : Word16) (s : State) :
    (s.setCrcOut x).seqStep = s.seqStep := (rfl)
@[simp] theorem State.setCrcOut_tries (x : Word16) (s : State) : (s.setCrcOut x).tries = s.tries := (rfl)
@[simp] theorem State.setCrcOut_rxLen (x : Word16) (s : State) : (s.setCrcOut x).rxLen = s.rxLen := (rfl)
@[simp] theorem State.setCrcOut_txLen (x : Word16) (s : State) : (s.setCrcOut x).txLen = s.txLen := (rfl)
@[simp] theorem State.setCrcOut_serialLen (x : Word16) (s : State) :
    (s.setCrcOut x).serialLen = s.serialLen := (rfl)
@[simp] theorem State.setCrcOut_keyFlags (x : Word16) (s : State) :
    (s.setCrcOut x).keyFlags = s.keyFlags := (rfl)
@[simp] theorem State.setCrcOut_wkeyLen (x : Word16) (s : State) :
    (s.setCrcOut x).wkeyLen = s.wkeyLen := (rfl)
@[simp] theorem State.setCrcOut_rkeyLen (x : Word16) (s : State) :
    (s.setCrcOut x).rkeyLen = s.rkeyLen := (rfl)
@[simp] theorem State.setCrcOut_attkeyLen (x : Word16) (s : State) :
    (s.setCrcOut x).attkeyLen = s.attkeyLen := (rfl)
@[simp] theorem State.setCrcOut_filterLen (x : Word16) (s : State) :
    (s.setCrcOut x).filterLen = s.filterLen := (rfl)
@[simp] theorem State.setCrcOut_result (x : Word16) (s : State) : (s.setCrcOut x).result = s.result := (rfl)
@[simp] theorem State.setCrcOut_crcAcc (x : Word16) (s : State) : (s.setCrcOut x).crcAcc = s.crcAcc := (rfl)
@[simp] theorem State.setCrcOut_crcOut (x : Word16) (s : State) : (s.setCrcOut x).crcOut = x := (rfl)
@[simp] theorem State.setCrcOut_seedCount (x : Word16) (s : State) :
    (s.setCrcOut x).seedCount = s.seedCount := (rfl)
@[simp] theorem State.setCrcOut_rngCount (x : Word16) (s : State) :
    (s.setCrcOut x).rngCount = s.rngCount := (rfl)
@[simp] theorem State.setCrcOut_diagCount (x : Word16) (s : State) :
    (s.setCrcOut x).diagCount = s.diagCount := (rfl)
@[simp] theorem State.setCrcOut_lastDiag (x : Word16) (s : State) :
    (s.setCrcOut x).lastDiag = s.lastDiag := (rfl)
@[simp] theorem State.setCrcOut_mem (x : Word16) (s : State) : (s.setCrcOut x).mem = s.mem := (rfl)
@[simp] theorem State.setCrcOut_opl (x : Word16) (s : State) : (s.setCrcOut x).opl = s.opl := (rfl)
@[simp] theorem State.setCrcOut_al (x : Word16) (s : State) : (s.setCrcOut x).al = s.al := (rfl)
@[simp] theorem State.setCrcOut_bl (x : Word16) (s : State) : (s.setCrcOut x).bl = s.bl := (rfl)
@[simp] theorem State.setCrcOut_cl (x : Word16) (s : State) : (s.setCrcOut x).cl = s.cl := (rfl)
@[simp] theorem State.setCrcOut_phase (x : Word16) (s : State) : (s.setCrcOut x).phase = s.phase := (rfl)
@[simp] theorem State.setCrcOut_att (x : Word16) (s : State) : (s.setCrcOut x).att = s.att := (rfl)
@[simp] theorem State.setCrcOut_cancelReq (x : Word16) (s : State) :
    (s.setCrcOut x).cancelReq = s.cancelReq := (rfl)
@[simp] theorem State.setCrcOut_chunk (x : Word16) (s : State) : (s.setCrcOut x).chunk = s.chunk := (rfl)
@[simp] theorem State.setCrcOut_chunkN (x : Word16) (s : State) : (s.setCrcOut x).chunkN = s.chunkN := (rfl)
@[simp] theorem State.setCrcOut_session (x : Word16) (s : State) :
    (s.setCrcOut x).session = s.session := (rfl)
@[simp] theorem State.setCrcOut_outLog (x : Word16) (s : State) : (s.setCrcOut x).outLog = s.outLog := (rfl)
@[simp] theorem State.setCrcOut_linkLog (x : Word16) (s : State) :
    (s.setCrcOut x).linkLog = s.linkLog := (rfl)
@[simp] theorem State.setCrcOut_params (x : Word16) (s : State) : (s.setCrcOut x).params = s.params := (rfl)
@[simp] theorem State.setCrcOut_env (x : Word16) (s : State) : (s.setCrcOut x).env = s.env := (rfl)
@[simp] theorem State.setCrcOut_freeCount (x : Word16) (s : State) :
    (s.setCrcOut x).freeCount = s.freeCount := (rfl)
@[simp] theorem State.setCrcOut_sched (x : Word16) (s : State) : (s.setCrcOut x).sched = s.sched := (rfl)
@[simp] theorem State.setCrcOut_rdata (x : Word16) (s : State) : (s.setCrcOut x).rdata = s.rdata := (rfl)

/-! ## closeSession -/

@[simp] theorem State.closeSession_opc (s : State) : (s.closeSession).opc = s.opc := (rfl)
@[simp] theorem State.closeSession_argA (s : State) : (s.closeSession).argA = s.argA := (rfl)
@[simp] theorem State.closeSession_argB (s : State) : (s.closeSession).argB = s.argB := (rfl)
@[simp] theorem State.closeSession_argC (s : State) : (s.closeSession).argC = s.argC := (rfl)
@[simp] theorem State.closeSession_status (s : State) :
    (s.closeSession).status = { s.status with opened := false } := (rfl)
@[simp] theorem State.closeSession_errCode (s : State) : (s.closeSession).errCode = s.errCode := (rfl)
@[simp] theorem State.closeSession_errStep (s : State) : (s.closeSession).errStep = s.errStep := (rfl)
@[simp] theorem State.closeSession_seqStep (s : State) : (s.closeSession).seqStep = s.seqStep := (rfl)
@[simp] theorem State.closeSession_tries (s : State) : (s.closeSession).tries = s.tries := (rfl)
@[simp] theorem State.closeSession_rxLen (s : State) : (s.closeSession).rxLen = s.rxLen := (rfl)
@[simp] theorem State.closeSession_txLen (s : State) : (s.closeSession).txLen = s.txLen := (rfl)
@[simp] theorem State.closeSession_serialLen (s : State) : (s.closeSession).serialLen = s.serialLen := (rfl)
@[simp] theorem State.closeSession_keyFlags (s : State) : (s.closeSession).keyFlags = s.keyFlags := (rfl)
@[simp] theorem State.closeSession_wkeyLen (s : State) : (s.closeSession).wkeyLen = s.wkeyLen := (rfl)
@[simp] theorem State.closeSession_rkeyLen (s : State) : (s.closeSession).rkeyLen = s.rkeyLen := (rfl)
@[simp] theorem State.closeSession_attkeyLen (s : State) : (s.closeSession).attkeyLen = s.attkeyLen := (rfl)
@[simp] theorem State.closeSession_filterLen (s : State) : (s.closeSession).filterLen = s.filterLen := (rfl)
@[simp] theorem State.closeSession_result (s : State) : (s.closeSession).result = s.result := (rfl)
@[simp] theorem State.closeSession_crcAcc (s : State) : (s.closeSession).crcAcc = s.crcAcc := (rfl)
@[simp] theorem State.closeSession_crcOut (s : State) : (s.closeSession).crcOut = s.crcOut := (rfl)
@[simp] theorem State.closeSession_seedCount (s : State) : (s.closeSession).seedCount = s.seedCount := (rfl)
@[simp] theorem State.closeSession_rngCount (s : State) : (s.closeSession).rngCount = s.rngCount := (rfl)
@[simp] theorem State.closeSession_diagCount (s : State) : (s.closeSession).diagCount = s.diagCount := (rfl)
@[simp] theorem State.closeSession_lastDiag (s : State) : (s.closeSession).lastDiag = s.lastDiag := (rfl)
@[simp] theorem State.closeSession_mem (s : State) : (s.closeSession).mem = s.mem := (rfl)
@[simp] theorem State.closeSession_opl (s : State) : (s.closeSession).opl = s.opl := (rfl)
@[simp] theorem State.closeSession_al (s : State) : (s.closeSession).al = s.al := (rfl)
@[simp] theorem State.closeSession_bl (s : State) : (s.closeSession).bl = s.bl := (rfl)
@[simp] theorem State.closeSession_cl (s : State) : (s.closeSession).cl = s.cl := (rfl)
@[simp] theorem State.closeSession_phase (s : State) : (s.closeSession).phase = s.phase := (rfl)
@[simp] theorem State.closeSession_att (s : State) : (s.closeSession).att = s.att := (rfl)
@[simp] theorem State.closeSession_cancelReq (s : State) : (s.closeSession).cancelReq = s.cancelReq := (rfl)
@[simp] theorem State.closeSession_chunk (s : State) : (s.closeSession).chunk = s.chunk := (rfl)
@[simp] theorem State.closeSession_chunkN (s : State) : (s.closeSession).chunkN = s.chunkN := (rfl)
@[simp] theorem State.closeSession_session (s : State) : (s.closeSession).session = none := (rfl)
@[simp] theorem State.closeSession_outLog (s : State) : (s.closeSession).outLog = s.outLog := (rfl)
@[simp] theorem State.closeSession_linkLog (s : State) : (s.closeSession).linkLog = s.linkLog := (rfl)
@[simp] theorem State.closeSession_params (s : State) : (s.closeSession).params = s.params := (rfl)
@[simp] theorem State.closeSession_env (s : State) : (s.closeSession).env = s.env := (rfl)
@[simp] theorem State.closeSession_freeCount (s : State) : (s.closeSession).freeCount = s.freeCount := (rfl)
@[simp] theorem State.closeSession_sched (s : State) : (s.closeSession).sched = s.sched := (rfl)
@[simp] theorem State.closeSession_rdata (s : State) : (s.closeSession).rdata = s.rdata := (rfl)

/-! ## setWkeyLen -/

@[simp] theorem State.setWkeyLen_opc (n : Byte) (s : State) : (s.setWkeyLen n).opc = s.opc := (rfl)
@[simp] theorem State.setWkeyLen_argA (n : Byte) (s : State) : (s.setWkeyLen n).argA = s.argA := (rfl)
@[simp] theorem State.setWkeyLen_argB (n : Byte) (s : State) : (s.setWkeyLen n).argB = s.argB := (rfl)
@[simp] theorem State.setWkeyLen_argC (n : Byte) (s : State) : (s.setWkeyLen n).argC = s.argC := (rfl)
@[simp] theorem State.setWkeyLen_status (n : Byte) (s : State) : (s.setWkeyLen n).status = s.status := (rfl)
@[simp] theorem State.setWkeyLen_errCode (n : Byte) (s : State) :
    (s.setWkeyLen n).errCode = s.errCode := (rfl)
@[simp] theorem State.setWkeyLen_errStep (n : Byte) (s : State) :
    (s.setWkeyLen n).errStep = s.errStep := (rfl)
@[simp] theorem State.setWkeyLen_seqStep (n : Byte) (s : State) :
    (s.setWkeyLen n).seqStep = s.seqStep := (rfl)
@[simp] theorem State.setWkeyLen_tries (n : Byte) (s : State) : (s.setWkeyLen n).tries = s.tries := (rfl)
@[simp] theorem State.setWkeyLen_rxLen (n : Byte) (s : State) : (s.setWkeyLen n).rxLen = s.rxLen := (rfl)
@[simp] theorem State.setWkeyLen_txLen (n : Byte) (s : State) : (s.setWkeyLen n).txLen = s.txLen := (rfl)
@[simp] theorem State.setWkeyLen_serialLen (n : Byte) (s : State) :
    (s.setWkeyLen n).serialLen = s.serialLen := (rfl)
@[simp] theorem State.setWkeyLen_keyFlags (n : Byte) (s : State) :
    (s.setWkeyLen n).keyFlags = s.keyFlags := (rfl)
@[simp] theorem State.setWkeyLen_wkeyLen (n : Byte) (s : State) : (s.setWkeyLen n).wkeyLen = n := (rfl)
@[simp] theorem State.setWkeyLen_rkeyLen (n : Byte) (s : State) :
    (s.setWkeyLen n).rkeyLen = s.rkeyLen := (rfl)
@[simp] theorem State.setWkeyLen_attkeyLen (n : Byte) (s : State) :
    (s.setWkeyLen n).attkeyLen = s.attkeyLen := (rfl)
@[simp] theorem State.setWkeyLen_filterLen (n : Byte) (s : State) :
    (s.setWkeyLen n).filterLen = s.filterLen := (rfl)
@[simp] theorem State.setWkeyLen_result (n : Byte) (s : State) : (s.setWkeyLen n).result = s.result := (rfl)
@[simp] theorem State.setWkeyLen_crcAcc (n : Byte) (s : State) : (s.setWkeyLen n).crcAcc = s.crcAcc := (rfl)
@[simp] theorem State.setWkeyLen_crcOut (n : Byte) (s : State) : (s.setWkeyLen n).crcOut = s.crcOut := (rfl)
@[simp] theorem State.setWkeyLen_seedCount (n : Byte) (s : State) :
    (s.setWkeyLen n).seedCount = s.seedCount := (rfl)
@[simp] theorem State.setWkeyLen_rngCount (n : Byte) (s : State) :
    (s.setWkeyLen n).rngCount = s.rngCount := (rfl)
@[simp] theorem State.setWkeyLen_diagCount (n : Byte) (s : State) :
    (s.setWkeyLen n).diagCount = s.diagCount := (rfl)
@[simp] theorem State.setWkeyLen_lastDiag (n : Byte) (s : State) :
    (s.setWkeyLen n).lastDiag = s.lastDiag := (rfl)
@[simp] theorem State.setWkeyLen_mem (n : Byte) (s : State) : (s.setWkeyLen n).mem = s.mem := (rfl)
@[simp] theorem State.setWkeyLen_opl (n : Byte) (s : State) : (s.setWkeyLen n).opl = s.opl := (rfl)
@[simp] theorem State.setWkeyLen_al (n : Byte) (s : State) : (s.setWkeyLen n).al = s.al := (rfl)
@[simp] theorem State.setWkeyLen_bl (n : Byte) (s : State) : (s.setWkeyLen n).bl = s.bl := (rfl)
@[simp] theorem State.setWkeyLen_cl (n : Byte) (s : State) : (s.setWkeyLen n).cl = s.cl := (rfl)
@[simp] theorem State.setWkeyLen_phase (n : Byte) (s : State) : (s.setWkeyLen n).phase = s.phase := (rfl)
@[simp] theorem State.setWkeyLen_att (n : Byte) (s : State) : (s.setWkeyLen n).att = s.att := (rfl)
@[simp] theorem State.setWkeyLen_cancelReq (n : Byte) (s : State) :
    (s.setWkeyLen n).cancelReq = s.cancelReq := (rfl)
@[simp] theorem State.setWkeyLen_chunk (n : Byte) (s : State) : (s.setWkeyLen n).chunk = s.chunk := (rfl)
@[simp] theorem State.setWkeyLen_chunkN (n : Byte) (s : State) : (s.setWkeyLen n).chunkN = s.chunkN := (rfl)
@[simp] theorem State.setWkeyLen_session (n : Byte) (s : State) :
    (s.setWkeyLen n).session = s.session := (rfl)
@[simp] theorem State.setWkeyLen_outLog (n : Byte) (s : State) : (s.setWkeyLen n).outLog = s.outLog := (rfl)
@[simp] theorem State.setWkeyLen_linkLog (n : Byte) (s : State) :
    (s.setWkeyLen n).linkLog = s.linkLog := (rfl)
@[simp] theorem State.setWkeyLen_params (n : Byte) (s : State) : (s.setWkeyLen n).params = s.params := (rfl)
@[simp] theorem State.setWkeyLen_env (n : Byte) (s : State) : (s.setWkeyLen n).env = s.env := (rfl)
@[simp] theorem State.setWkeyLen_freeCount (n : Byte) (s : State) :
    (s.setWkeyLen n).freeCount = s.freeCount := (rfl)
@[simp] theorem State.setWkeyLen_sched (n : Byte) (s : State) : (s.setWkeyLen n).sched = s.sched := (rfl)
@[simp] theorem State.setWkeyLen_rdata (n : Byte) (s : State) : (s.setWkeyLen n).rdata = s.rdata := (rfl)

/-! ## setRkeyLen -/

@[simp] theorem State.setRkeyLen_opc (n : Byte) (s : State) : (s.setRkeyLen n).opc = s.opc := (rfl)
@[simp] theorem State.setRkeyLen_argA (n : Byte) (s : State) : (s.setRkeyLen n).argA = s.argA := (rfl)
@[simp] theorem State.setRkeyLen_argB (n : Byte) (s : State) : (s.setRkeyLen n).argB = s.argB := (rfl)
@[simp] theorem State.setRkeyLen_argC (n : Byte) (s : State) : (s.setRkeyLen n).argC = s.argC := (rfl)
@[simp] theorem State.setRkeyLen_status (n : Byte) (s : State) : (s.setRkeyLen n).status = s.status := (rfl)
@[simp] theorem State.setRkeyLen_errCode (n : Byte) (s : State) :
    (s.setRkeyLen n).errCode = s.errCode := (rfl)
@[simp] theorem State.setRkeyLen_errStep (n : Byte) (s : State) :
    (s.setRkeyLen n).errStep = s.errStep := (rfl)
@[simp] theorem State.setRkeyLen_seqStep (n : Byte) (s : State) :
    (s.setRkeyLen n).seqStep = s.seqStep := (rfl)
@[simp] theorem State.setRkeyLen_tries (n : Byte) (s : State) : (s.setRkeyLen n).tries = s.tries := (rfl)
@[simp] theorem State.setRkeyLen_rxLen (n : Byte) (s : State) : (s.setRkeyLen n).rxLen = s.rxLen := (rfl)
@[simp] theorem State.setRkeyLen_txLen (n : Byte) (s : State) : (s.setRkeyLen n).txLen = s.txLen := (rfl)
@[simp] theorem State.setRkeyLen_serialLen (n : Byte) (s : State) :
    (s.setRkeyLen n).serialLen = s.serialLen := (rfl)
@[simp] theorem State.setRkeyLen_keyFlags (n : Byte) (s : State) :
    (s.setRkeyLen n).keyFlags = s.keyFlags := (rfl)
@[simp] theorem State.setRkeyLen_wkeyLen (n : Byte) (s : State) :
    (s.setRkeyLen n).wkeyLen = s.wkeyLen := (rfl)
@[simp] theorem State.setRkeyLen_rkeyLen (n : Byte) (s : State) : (s.setRkeyLen n).rkeyLen = n := (rfl)
@[simp] theorem State.setRkeyLen_attkeyLen (n : Byte) (s : State) :
    (s.setRkeyLen n).attkeyLen = s.attkeyLen := (rfl)
@[simp] theorem State.setRkeyLen_filterLen (n : Byte) (s : State) :
    (s.setRkeyLen n).filterLen = s.filterLen := (rfl)
@[simp] theorem State.setRkeyLen_result (n : Byte) (s : State) : (s.setRkeyLen n).result = s.result := (rfl)
@[simp] theorem State.setRkeyLen_crcAcc (n : Byte) (s : State) : (s.setRkeyLen n).crcAcc = s.crcAcc := (rfl)
@[simp] theorem State.setRkeyLen_crcOut (n : Byte) (s : State) : (s.setRkeyLen n).crcOut = s.crcOut := (rfl)
@[simp] theorem State.setRkeyLen_seedCount (n : Byte) (s : State) :
    (s.setRkeyLen n).seedCount = s.seedCount := (rfl)
@[simp] theorem State.setRkeyLen_rngCount (n : Byte) (s : State) :
    (s.setRkeyLen n).rngCount = s.rngCount := (rfl)
@[simp] theorem State.setRkeyLen_diagCount (n : Byte) (s : State) :
    (s.setRkeyLen n).diagCount = s.diagCount := (rfl)
@[simp] theorem State.setRkeyLen_lastDiag (n : Byte) (s : State) :
    (s.setRkeyLen n).lastDiag = s.lastDiag := (rfl)
@[simp] theorem State.setRkeyLen_mem (n : Byte) (s : State) : (s.setRkeyLen n).mem = s.mem := (rfl)
@[simp] theorem State.setRkeyLen_opl (n : Byte) (s : State) : (s.setRkeyLen n).opl = s.opl := (rfl)
@[simp] theorem State.setRkeyLen_al (n : Byte) (s : State) : (s.setRkeyLen n).al = s.al := (rfl)
@[simp] theorem State.setRkeyLen_bl (n : Byte) (s : State) : (s.setRkeyLen n).bl = s.bl := (rfl)
@[simp] theorem State.setRkeyLen_cl (n : Byte) (s : State) : (s.setRkeyLen n).cl = s.cl := (rfl)
@[simp] theorem State.setRkeyLen_phase (n : Byte) (s : State) : (s.setRkeyLen n).phase = s.phase := (rfl)
@[simp] theorem State.setRkeyLen_att (n : Byte) (s : State) : (s.setRkeyLen n).att = s.att := (rfl)
@[simp] theorem State.setRkeyLen_cancelReq (n : Byte) (s : State) :
    (s.setRkeyLen n).cancelReq = s.cancelReq := (rfl)
@[simp] theorem State.setRkeyLen_chunk (n : Byte) (s : State) : (s.setRkeyLen n).chunk = s.chunk := (rfl)
@[simp] theorem State.setRkeyLen_chunkN (n : Byte) (s : State) : (s.setRkeyLen n).chunkN = s.chunkN := (rfl)
@[simp] theorem State.setRkeyLen_session (n : Byte) (s : State) :
    (s.setRkeyLen n).session = s.session := (rfl)
@[simp] theorem State.setRkeyLen_outLog (n : Byte) (s : State) : (s.setRkeyLen n).outLog = s.outLog := (rfl)
@[simp] theorem State.setRkeyLen_linkLog (n : Byte) (s : State) :
    (s.setRkeyLen n).linkLog = s.linkLog := (rfl)
@[simp] theorem State.setRkeyLen_params (n : Byte) (s : State) : (s.setRkeyLen n).params = s.params := (rfl)
@[simp] theorem State.setRkeyLen_env (n : Byte) (s : State) : (s.setRkeyLen n).env = s.env := (rfl)
@[simp] theorem State.setRkeyLen_freeCount (n : Byte) (s : State) :
    (s.setRkeyLen n).freeCount = s.freeCount := (rfl)
@[simp] theorem State.setRkeyLen_sched (n : Byte) (s : State) : (s.setRkeyLen n).sched = s.sched := (rfl)
@[simp] theorem State.setRkeyLen_rdata (n : Byte) (s : State) : (s.setRkeyLen n).rdata = s.rdata := (rfl)

/-! ## setSerialLen -/

@[simp] theorem State.setSerialLen_opc (n : Byte) (s : State) : (s.setSerialLen n).opc = s.opc := (rfl)
@[simp] theorem State.setSerialLen_argA (n : Byte) (s : State) : (s.setSerialLen n).argA = s.argA := (rfl)
@[simp] theorem State.setSerialLen_argB (n : Byte) (s : State) : (s.setSerialLen n).argB = s.argB := (rfl)
@[simp] theorem State.setSerialLen_argC (n : Byte) (s : State) : (s.setSerialLen n).argC = s.argC := (rfl)
@[simp] theorem State.setSerialLen_status (n : Byte) (s : State) :
    (s.setSerialLen n).status = s.status := (rfl)
@[simp] theorem State.setSerialLen_errCode (n : Byte) (s : State) :
    (s.setSerialLen n).errCode = s.errCode := (rfl)
@[simp] theorem State.setSerialLen_errStep (n : Byte) (s : State) :
    (s.setSerialLen n).errStep = s.errStep := (rfl)
@[simp] theorem State.setSerialLen_seqStep (n : Byte) (s : State) :
    (s.setSerialLen n).seqStep = s.seqStep := (rfl)
@[simp] theorem State.setSerialLen_tries (n : Byte) (s : State) : (s.setSerialLen n).tries = s.tries := (rfl)
@[simp] theorem State.setSerialLen_rxLen (n : Byte) (s : State) : (s.setSerialLen n).rxLen = s.rxLen := (rfl)
@[simp] theorem State.setSerialLen_txLen (n : Byte) (s : State) : (s.setSerialLen n).txLen = s.txLen := (rfl)
@[simp] theorem State.setSerialLen_serialLen (n : Byte) (s : State) :
    (s.setSerialLen n).serialLen = n := (rfl)
@[simp] theorem State.setSerialLen_keyFlags (n : Byte) (s : State) :
    (s.setSerialLen n).keyFlags = s.keyFlags := (rfl)
@[simp] theorem State.setSerialLen_wkeyLen (n : Byte) (s : State) :
    (s.setSerialLen n).wkeyLen = s.wkeyLen := (rfl)
@[simp] theorem State.setSerialLen_rkeyLen (n : Byte) (s : State) :
    (s.setSerialLen n).rkeyLen = s.rkeyLen := (rfl)
@[simp] theorem State.setSerialLen_attkeyLen (n : Byte) (s : State) :
    (s.setSerialLen n).attkeyLen = s.attkeyLen := (rfl)
@[simp] theorem State.setSerialLen_filterLen (n : Byte) (s : State) :
    (s.setSerialLen n).filterLen = s.filterLen := (rfl)
@[simp] theorem State.setSerialLen_result (n : Byte) (s : State) :
    (s.setSerialLen n).result = s.result := (rfl)
@[simp] theorem State.setSerialLen_crcAcc (n : Byte) (s : State) :
    (s.setSerialLen n).crcAcc = s.crcAcc := (rfl)
@[simp] theorem State.setSerialLen_crcOut (n : Byte) (s : State) :
    (s.setSerialLen n).crcOut = s.crcOut := (rfl)
@[simp] theorem State.setSerialLen_seedCount (n : Byte) (s : State) :
    (s.setSerialLen n).seedCount = s.seedCount := (rfl)
@[simp] theorem State.setSerialLen_rngCount (n : Byte) (s : State) :
    (s.setSerialLen n).rngCount = s.rngCount := (rfl)
@[simp] theorem State.setSerialLen_diagCount (n : Byte) (s : State) :
    (s.setSerialLen n).diagCount = s.diagCount := (rfl)
@[simp] theorem State.setSerialLen_lastDiag (n : Byte) (s : State) :
    (s.setSerialLen n).lastDiag = s.lastDiag := (rfl)
@[simp] theorem State.setSerialLen_mem (n : Byte) (s : State) : (s.setSerialLen n).mem = s.mem := (rfl)
@[simp] theorem State.setSerialLen_opl (n : Byte) (s : State) : (s.setSerialLen n).opl = s.opl := (rfl)
@[simp] theorem State.setSerialLen_al (n : Byte) (s : State) : (s.setSerialLen n).al = s.al := (rfl)
@[simp] theorem State.setSerialLen_bl (n : Byte) (s : State) : (s.setSerialLen n).bl = s.bl := (rfl)
@[simp] theorem State.setSerialLen_cl (n : Byte) (s : State) : (s.setSerialLen n).cl = s.cl := (rfl)
@[simp] theorem State.setSerialLen_phase (n : Byte) (s : State) : (s.setSerialLen n).phase = s.phase := (rfl)
@[simp] theorem State.setSerialLen_att (n : Byte) (s : State) : (s.setSerialLen n).att = s.att := (rfl)
@[simp] theorem State.setSerialLen_cancelReq (n : Byte) (s : State) :
    (s.setSerialLen n).cancelReq = s.cancelReq := (rfl)
@[simp] theorem State.setSerialLen_chunk (n : Byte) (s : State) : (s.setSerialLen n).chunk = s.chunk := (rfl)
@[simp] theorem State.setSerialLen_chunkN (n : Byte) (s : State) :
    (s.setSerialLen n).chunkN = s.chunkN := (rfl)
@[simp] theorem State.setSerialLen_session (n : Byte) (s : State) :
    (s.setSerialLen n).session = s.session := (rfl)
@[simp] theorem State.setSerialLen_outLog (n : Byte) (s : State) :
    (s.setSerialLen n).outLog = s.outLog := (rfl)
@[simp] theorem State.setSerialLen_linkLog (n : Byte) (s : State) :
    (s.setSerialLen n).linkLog = s.linkLog := (rfl)
@[simp] theorem State.setSerialLen_params (n : Byte) (s : State) :
    (s.setSerialLen n).params = s.params := (rfl)
@[simp] theorem State.setSerialLen_env (n : Byte) (s : State) : (s.setSerialLen n).env = s.env := (rfl)
@[simp] theorem State.setSerialLen_freeCount (n : Byte) (s : State) :
    (s.setSerialLen n).freeCount = s.freeCount := (rfl)
@[simp] theorem State.setSerialLen_sched (n : Byte) (s : State) : (s.setSerialLen n).sched = s.sched := (rfl)
@[simp] theorem State.setSerialLen_rdata (n : Byte) (s : State) : (s.setSerialLen n).rdata = s.rdata := (rfl)

/-! ## beginConfigure -/

@[simp] theorem State.beginConfigure_opc (s : State) : (s.beginConfigure).opc = s.opc := (rfl)
@[simp] theorem State.beginConfigure_argA (s : State) : (s.beginConfigure).argA = s.argA := (rfl)
@[simp] theorem State.beginConfigure_argB (s : State) : (s.beginConfigure).argB = s.argB := (rfl)
@[simp] theorem State.beginConfigure_argC (s : State) : (s.beginConfigure).argC = s.argC := (rfl)
@[simp] theorem State.beginConfigure_status (s : State) :
    (s.beginConfigure).status = { s.status with outv := false } := (rfl)
@[simp] theorem State.beginConfigure_errCode (s : State) : (s.beginConfigure).errCode = s.errCode := (rfl)
@[simp] theorem State.beginConfigure_errStep (s : State) : (s.beginConfigure).errStep = s.errStep := (rfl)
@[simp] theorem State.beginConfigure_seqStep (s : State) : (s.beginConfigure).seqStep = 0 := (rfl)
@[simp] theorem State.beginConfigure_tries (s : State) : (s.beginConfigure).tries = s.tries := (rfl)
@[simp] theorem State.beginConfigure_rxLen (s : State) : (s.beginConfigure).rxLen = s.rxLen := (rfl)
@[simp] theorem State.beginConfigure_txLen (s : State) : (s.beginConfigure).txLen = s.txLen := (rfl)
@[simp] theorem State.beginConfigure_serialLen (s : State) :
    (s.beginConfigure).serialLen = s.serialLen := (rfl)
@[simp] theorem State.beginConfigure_keyFlags (s : State) : (s.beginConfigure).keyFlags = s.keyFlags := (rfl)
@[simp] theorem State.beginConfigure_wkeyLen (s : State) : (s.beginConfigure).wkeyLen = s.wkeyLen := (rfl)
@[simp] theorem State.beginConfigure_rkeyLen (s : State) : (s.beginConfigure).rkeyLen = s.rkeyLen := (rfl)
@[simp] theorem State.beginConfigure_attkeyLen (s : State) :
    (s.beginConfigure).attkeyLen = s.attkeyLen := (rfl)
@[simp] theorem State.beginConfigure_filterLen (s : State) :
    (s.beginConfigure).filterLen = s.filterLen := (rfl)
@[simp] theorem State.beginConfigure_result (s : State) : (s.beginConfigure).result = s.result := (rfl)
@[simp] theorem State.beginConfigure_crcAcc (s : State) : (s.beginConfigure).crcAcc = s.crcAcc := (rfl)
@[simp] theorem State.beginConfigure_crcOut (s : State) : (s.beginConfigure).crcOut = s.crcOut := (rfl)
@[simp] theorem State.beginConfigure_seedCount (s : State) :
    (s.beginConfigure).seedCount = s.seedCount := (rfl)
@[simp] theorem State.beginConfigure_rngCount (s : State) : (s.beginConfigure).rngCount = s.rngCount := (rfl)
@[simp] theorem State.beginConfigure_diagCount (s : State) :
    (s.beginConfigure).diagCount = s.diagCount := (rfl)
@[simp] theorem State.beginConfigure_lastDiag (s : State) : (s.beginConfigure).lastDiag = s.lastDiag := (rfl)
@[simp] theorem State.beginConfigure_mem (s : State) : (s.beginConfigure).mem = s.mem := (rfl)
@[simp] theorem State.beginConfigure_opl (s : State) : (s.beginConfigure).opl = s.opl := (rfl)
@[simp] theorem State.beginConfigure_al (s : State) : (s.beginConfigure).al = s.al := (rfl)
@[simp] theorem State.beginConfigure_bl (s : State) : (s.beginConfigure).bl = s.bl := (rfl)
@[simp] theorem State.beginConfigure_cl (s : State) : (s.beginConfigure).cl = s.cl := (rfl)
@[simp] theorem State.beginConfigure_phase (s : State) : (s.beginConfigure).phase = s.phase := (rfl)
@[simp] theorem State.beginConfigure_att (s : State) : (s.beginConfigure).att = s.att := (rfl)
@[simp] theorem State.beginConfigure_cancelReq (s : State) :
    (s.beginConfigure).cancelReq = s.cancelReq := (rfl)
@[simp] theorem State.beginConfigure_chunk (s : State) : (s.beginConfigure).chunk = s.chunk := (rfl)
@[simp] theorem State.beginConfigure_chunkN (s : State) : (s.beginConfigure).chunkN = s.chunkN := (rfl)
@[simp] theorem State.beginConfigure_session (s : State) : (s.beginConfigure).session = s.session := (rfl)
@[simp] theorem State.beginConfigure_outLog (s : State) : (s.beginConfigure).outLog = s.outLog := (rfl)
@[simp] theorem State.beginConfigure_linkLog (s : State) : (s.beginConfigure).linkLog = s.linkLog := (rfl)
@[simp] theorem State.beginConfigure_params (s : State) : (s.beginConfigure).params = s.params := (rfl)
@[simp] theorem State.beginConfigure_env (s : State) : (s.beginConfigure).env = s.env := (rfl)
@[simp] theorem State.beginConfigure_freeCount (s : State) :
    (s.beginConfigure).freeCount = s.freeCount := (rfl)
@[simp] theorem State.beginConfigure_sched (s : State) : (s.beginConfigure).sched = s.sched := (rfl)
@[simp] theorem State.beginConfigure_rdata (s : State) : (s.beginConfigure).rdata = s.rdata := (rfl)

/-! ## zeroRngCounts -/

@[simp] theorem State.zeroRngCounts_opc (s : State) : (s.zeroRngCounts).opc = s.opc := (rfl)
@[simp] theorem State.zeroRngCounts_argA (s : State) : (s.zeroRngCounts).argA = s.argA := (rfl)
@[simp] theorem State.zeroRngCounts_argB (s : State) : (s.zeroRngCounts).argB = s.argB := (rfl)
@[simp] theorem State.zeroRngCounts_argC (s : State) : (s.zeroRngCounts).argC = s.argC := (rfl)
@[simp] theorem State.zeroRngCounts_status (s : State) : (s.zeroRngCounts).status = s.status := (rfl)
@[simp] theorem State.zeroRngCounts_errCode (s : State) : (s.zeroRngCounts).errCode = s.errCode := (rfl)
@[simp] theorem State.zeroRngCounts_errStep (s : State) : (s.zeroRngCounts).errStep = s.errStep := (rfl)
@[simp] theorem State.zeroRngCounts_seqStep (s : State) : (s.zeroRngCounts).seqStep = s.seqStep := (rfl)
@[simp] theorem State.zeroRngCounts_tries (s : State) : (s.zeroRngCounts).tries = s.tries := (rfl)
@[simp] theorem State.zeroRngCounts_rxLen (s : State) : (s.zeroRngCounts).rxLen = s.rxLen := (rfl)
@[simp] theorem State.zeroRngCounts_txLen (s : State) : (s.zeroRngCounts).txLen = s.txLen := (rfl)
@[simp] theorem State.zeroRngCounts_serialLen (s : State) : (s.zeroRngCounts).serialLen = s.serialLen := (rfl)
@[simp] theorem State.zeroRngCounts_keyFlags (s : State) : (s.zeroRngCounts).keyFlags = s.keyFlags := (rfl)
@[simp] theorem State.zeroRngCounts_wkeyLen (s : State) : (s.zeroRngCounts).wkeyLen = s.wkeyLen := (rfl)
@[simp] theorem State.zeroRngCounts_rkeyLen (s : State) : (s.zeroRngCounts).rkeyLen = s.rkeyLen := (rfl)
@[simp] theorem State.zeroRngCounts_attkeyLen (s : State) : (s.zeroRngCounts).attkeyLen = s.attkeyLen := (rfl)
@[simp] theorem State.zeroRngCounts_filterLen (s : State) : (s.zeroRngCounts).filterLen = s.filterLen := (rfl)
@[simp] theorem State.zeroRngCounts_result (s : State) : (s.zeroRngCounts).result = s.result := (rfl)
@[simp] theorem State.zeroRngCounts_crcAcc (s : State) : (s.zeroRngCounts).crcAcc = s.crcAcc := (rfl)
@[simp] theorem State.zeroRngCounts_crcOut (s : State) : (s.zeroRngCounts).crcOut = s.crcOut := (rfl)
@[simp] theorem State.zeroRngCounts_seedCount (s : State) : (s.zeroRngCounts).seedCount = s.seedCount := (rfl)
@[simp] theorem State.zeroRngCounts_rngCount (s : State) : (s.zeroRngCounts).rngCount = 0 := (rfl)
@[simp] theorem State.zeroRngCounts_diagCount (s : State) : (s.zeroRngCounts).diagCount = 0 := (rfl)
@[simp] theorem State.zeroRngCounts_lastDiag (s : State) : (s.zeroRngCounts).lastDiag = s.lastDiag := (rfl)
@[simp] theorem State.zeroRngCounts_mem (s : State) : (s.zeroRngCounts).mem = s.mem := (rfl)
@[simp] theorem State.zeroRngCounts_opl (s : State) : (s.zeroRngCounts).opl = s.opl := (rfl)
@[simp] theorem State.zeroRngCounts_al (s : State) : (s.zeroRngCounts).al = s.al := (rfl)
@[simp] theorem State.zeroRngCounts_bl (s : State) : (s.zeroRngCounts).bl = s.bl := (rfl)
@[simp] theorem State.zeroRngCounts_cl (s : State) : (s.zeroRngCounts).cl = s.cl := (rfl)
@[simp] theorem State.zeroRngCounts_phase (s : State) : (s.zeroRngCounts).phase = s.phase := (rfl)
@[simp] theorem State.zeroRngCounts_att (s : State) : (s.zeroRngCounts).att = s.att := (rfl)
@[simp] theorem State.zeroRngCounts_cancelReq (s : State) : (s.zeroRngCounts).cancelReq = s.cancelReq := (rfl)
@[simp] theorem State.zeroRngCounts_chunk (s : State) : (s.zeroRngCounts).chunk = s.chunk := (rfl)
@[simp] theorem State.zeroRngCounts_chunkN (s : State) : (s.zeroRngCounts).chunkN = s.chunkN := (rfl)
@[simp] theorem State.zeroRngCounts_session (s : State) : (s.zeroRngCounts).session = s.session := (rfl)
@[simp] theorem State.zeroRngCounts_outLog (s : State) : (s.zeroRngCounts).outLog = s.outLog := (rfl)
@[simp] theorem State.zeroRngCounts_linkLog (s : State) : (s.zeroRngCounts).linkLog = s.linkLog := (rfl)
@[simp] theorem State.zeroRngCounts_params (s : State) : (s.zeroRngCounts).params = s.params := (rfl)
@[simp] theorem State.zeroRngCounts_env (s : State) : (s.zeroRngCounts).env = s.env := (rfl)
@[simp] theorem State.zeroRngCounts_freeCount (s : State) : (s.zeroRngCounts).freeCount = s.freeCount := (rfl)
@[simp] theorem State.zeroRngCounts_sched (s : State) : (s.zeroRngCounts).sched = s.sched := (rfl)
@[simp] theorem State.zeroRngCounts_rdata (s : State) : (s.zeroRngCounts).rdata = s.rdata := (rfl)

/-! ## countRng -/

@[simp] theorem State.countRng_opc (s : State) : (s.countRng).opc = s.opc := (rfl)
@[simp] theorem State.countRng_argA (s : State) : (s.countRng).argA = s.argA := (rfl)
@[simp] theorem State.countRng_argB (s : State) : (s.countRng).argB = s.argB := (rfl)
@[simp] theorem State.countRng_argC (s : State) : (s.countRng).argC = s.argC := (rfl)
@[simp] theorem State.countRng_status (s : State) : (s.countRng).status = s.status := (rfl)
@[simp] theorem State.countRng_errCode (s : State) : (s.countRng).errCode = s.errCode := (rfl)
@[simp] theorem State.countRng_errStep (s : State) : (s.countRng).errStep = s.errStep := (rfl)
@[simp] theorem State.countRng_seqStep (s : State) : (s.countRng).seqStep = s.seqStep := (rfl)
@[simp] theorem State.countRng_tries (s : State) : (s.countRng).tries = s.tries := (rfl)
@[simp] theorem State.countRng_rxLen (s : State) : (s.countRng).rxLen = s.rxLen := (rfl)
@[simp] theorem State.countRng_txLen (s : State) : (s.countRng).txLen = s.txLen := (rfl)
@[simp] theorem State.countRng_serialLen (s : State) : (s.countRng).serialLen = s.serialLen := (rfl)
@[simp] theorem State.countRng_keyFlags (s : State) : (s.countRng).keyFlags = s.keyFlags := (rfl)
@[simp] theorem State.countRng_wkeyLen (s : State) : (s.countRng).wkeyLen = s.wkeyLen := (rfl)
@[simp] theorem State.countRng_rkeyLen (s : State) : (s.countRng).rkeyLen = s.rkeyLen := (rfl)
@[simp] theorem State.countRng_attkeyLen (s : State) : (s.countRng).attkeyLen = s.attkeyLen := (rfl)
@[simp] theorem State.countRng_filterLen (s : State) : (s.countRng).filterLen = s.filterLen := (rfl)
@[simp] theorem State.countRng_result (s : State) : (s.countRng).result = s.result := (rfl)
@[simp] theorem State.countRng_crcAcc (s : State) : (s.countRng).crcAcc = s.crcAcc := (rfl)
@[simp] theorem State.countRng_crcOut (s : State) : (s.countRng).crcOut = s.crcOut := (rfl)
@[simp] theorem State.countRng_seedCount (s : State) : (s.countRng).seedCount = s.seedCount := (rfl)
@[simp] theorem State.countRng_rngCount (s : State) : (s.countRng).rngCount = s.rngCount + 32 := (rfl)
@[simp] theorem State.countRng_diagCount (s : State) : (s.countRng).diagCount = s.diagCount := (rfl)
@[simp] theorem State.countRng_lastDiag (s : State) : (s.countRng).lastDiag = s.lastDiag := (rfl)
@[simp] theorem State.countRng_mem (s : State) : (s.countRng).mem = s.mem := (rfl)
@[simp] theorem State.countRng_opl (s : State) : (s.countRng).opl = s.opl := (rfl)
@[simp] theorem State.countRng_al (s : State) : (s.countRng).al = s.al := (rfl)
@[simp] theorem State.countRng_bl (s : State) : (s.countRng).bl = s.bl := (rfl)
@[simp] theorem State.countRng_cl (s : State) : (s.countRng).cl = s.cl := (rfl)
@[simp] theorem State.countRng_phase (s : State) : (s.countRng).phase = s.phase := (rfl)
@[simp] theorem State.countRng_att (s : State) : (s.countRng).att = s.att := (rfl)
@[simp] theorem State.countRng_cancelReq (s : State) : (s.countRng).cancelReq = s.cancelReq := (rfl)
@[simp] theorem State.countRng_chunk (s : State) : (s.countRng).chunk = s.chunk := (rfl)
@[simp] theorem State.countRng_chunkN (s : State) : (s.countRng).chunkN = s.chunkN := (rfl)
@[simp] theorem State.countRng_session (s : State) : (s.countRng).session = s.session := (rfl)
@[simp] theorem State.countRng_outLog (s : State) : (s.countRng).outLog = s.outLog := (rfl)
@[simp] theorem State.countRng_linkLog (s : State) : (s.countRng).linkLog = s.linkLog := (rfl)
@[simp] theorem State.countRng_params (s : State) : (s.countRng).params = s.params := (rfl)
@[simp] theorem State.countRng_env (s : State) : (s.countRng).env = s.env := (rfl)
@[simp] theorem State.countRng_freeCount (s : State) : (s.countRng).freeCount = s.freeCount := (rfl)
@[simp] theorem State.countRng_sched (s : State) : (s.countRng).sched = s.sched := (rfl)
@[simp] theorem State.countRng_rdata (s : State) : (s.countRng).rdata = s.rdata := (rfl)

/-! ## zeroSeedCounts -/

@[simp] theorem State.zeroSeedCounts_opc (s : State) : (s.zeroSeedCounts).opc = s.opc := (rfl)
@[simp] theorem State.zeroSeedCounts_argA (s : State) : (s.zeroSeedCounts).argA = s.argA := (rfl)
@[simp] theorem State.zeroSeedCounts_argB (s : State) : (s.zeroSeedCounts).argB = s.argB := (rfl)
@[simp] theorem State.zeroSeedCounts_argC (s : State) : (s.zeroSeedCounts).argC = s.argC := (rfl)
@[simp] theorem State.zeroSeedCounts_status (s : State) : (s.zeroSeedCounts).status = s.status := (rfl)
@[simp] theorem State.zeroSeedCounts_errCode (s : State) : (s.zeroSeedCounts).errCode = s.errCode := (rfl)
@[simp] theorem State.zeroSeedCounts_errStep (s : State) : (s.zeroSeedCounts).errStep = s.errStep := (rfl)
@[simp] theorem State.zeroSeedCounts_seqStep (s : State) : (s.zeroSeedCounts).seqStep = s.seqStep := (rfl)
@[simp] theorem State.zeroSeedCounts_tries (s : State) : (s.zeroSeedCounts).tries = s.tries := (rfl)
@[simp] theorem State.zeroSeedCounts_rxLen (s : State) : (s.zeroSeedCounts).rxLen = s.rxLen := (rfl)
@[simp] theorem State.zeroSeedCounts_txLen (s : State) : (s.zeroSeedCounts).txLen = s.txLen := (rfl)
@[simp] theorem State.zeroSeedCounts_serialLen (s : State) :
    (s.zeroSeedCounts).serialLen = s.serialLen := (rfl)
@[simp] theorem State.zeroSeedCounts_keyFlags (s : State) : (s.zeroSeedCounts).keyFlags = s.keyFlags := (rfl)
@[simp] theorem State.zeroSeedCounts_wkeyLen (s : State) : (s.zeroSeedCounts).wkeyLen = s.wkeyLen := (rfl)
@[simp] theorem State.zeroSeedCounts_rkeyLen (s : State) : (s.zeroSeedCounts).rkeyLen = s.rkeyLen := (rfl)
@[simp] theorem State.zeroSeedCounts_attkeyLen (s : State) :
    (s.zeroSeedCounts).attkeyLen = s.attkeyLen := (rfl)
@[simp] theorem State.zeroSeedCounts_filterLen (s : State) :
    (s.zeroSeedCounts).filterLen = s.filterLen := (rfl)
@[simp] theorem State.zeroSeedCounts_result (s : State) : (s.zeroSeedCounts).result = s.result := (rfl)
@[simp] theorem State.zeroSeedCounts_crcAcc (s : State) : (s.zeroSeedCounts).crcAcc = s.crcAcc := (rfl)
@[simp] theorem State.zeroSeedCounts_crcOut (s : State) : (s.zeroSeedCounts).crcOut = s.crcOut := (rfl)
@[simp] theorem State.zeroSeedCounts_seedCount (s : State) : (s.zeroSeedCounts).seedCount = 0 := (rfl)
@[simp] theorem State.zeroSeedCounts_rngCount (s : State) : (s.zeroSeedCounts).rngCount = s.rngCount := (rfl)
@[simp] theorem State.zeroSeedCounts_diagCount (s : State) : (s.zeroSeedCounts).diagCount = 0 := (rfl)
@[simp] theorem State.zeroSeedCounts_lastDiag (s : State) : (s.zeroSeedCounts).lastDiag = s.lastDiag := (rfl)
@[simp] theorem State.zeroSeedCounts_mem (s : State) : (s.zeroSeedCounts).mem = s.mem := (rfl)
@[simp] theorem State.zeroSeedCounts_opl (s : State) : (s.zeroSeedCounts).opl = s.opl := (rfl)
@[simp] theorem State.zeroSeedCounts_al (s : State) : (s.zeroSeedCounts).al = s.al := (rfl)
@[simp] theorem State.zeroSeedCounts_bl (s : State) : (s.zeroSeedCounts).bl = s.bl := (rfl)
@[simp] theorem State.zeroSeedCounts_cl (s : State) : (s.zeroSeedCounts).cl = s.cl := (rfl)
@[simp] theorem State.zeroSeedCounts_phase (s : State) : (s.zeroSeedCounts).phase = s.phase := (rfl)
@[simp] theorem State.zeroSeedCounts_att (s : State) : (s.zeroSeedCounts).att = s.att := (rfl)
@[simp] theorem State.zeroSeedCounts_cancelReq (s : State) :
    (s.zeroSeedCounts).cancelReq = s.cancelReq := (rfl)
@[simp] theorem State.zeroSeedCounts_chunk (s : State) : (s.zeroSeedCounts).chunk = s.chunk := (rfl)
@[simp] theorem State.zeroSeedCounts_chunkN (s : State) : (s.zeroSeedCounts).chunkN = s.chunkN := (rfl)
@[simp] theorem State.zeroSeedCounts_session (s : State) : (s.zeroSeedCounts).session = s.session := (rfl)
@[simp] theorem State.zeroSeedCounts_outLog (s : State) : (s.zeroSeedCounts).outLog = s.outLog := (rfl)
@[simp] theorem State.zeroSeedCounts_linkLog (s : State) : (s.zeroSeedCounts).linkLog = s.linkLog := (rfl)
@[simp] theorem State.zeroSeedCounts_params (s : State) : (s.zeroSeedCounts).params = s.params := (rfl)
@[simp] theorem State.zeroSeedCounts_env (s : State) : (s.zeroSeedCounts).env = s.env := (rfl)
@[simp] theorem State.zeroSeedCounts_freeCount (s : State) :
    (s.zeroSeedCounts).freeCount = s.freeCount := (rfl)
@[simp] theorem State.zeroSeedCounts_sched (s : State) : (s.zeroSeedCounts).sched = s.sched := (rfl)
@[simp] theorem State.zeroSeedCounts_rdata (s : State) : (s.zeroSeedCounts).rdata = s.rdata := (rfl)

/-! ## countSeed -/

@[simp] theorem State.countSeed_opc (s : State) : (s.countSeed).opc = s.opc := (rfl)
@[simp] theorem State.countSeed_argA (s : State) : (s.countSeed).argA = s.argA := (rfl)
@[simp] theorem State.countSeed_argB (s : State) : (s.countSeed).argB = s.argB := (rfl)
@[simp] theorem State.countSeed_argC (s : State) : (s.countSeed).argC = s.argC := (rfl)
@[simp] theorem State.countSeed_status (s : State) : (s.countSeed).status = s.status := (rfl)
@[simp] theorem State.countSeed_errCode (s : State) : (s.countSeed).errCode = s.errCode := (rfl)
@[simp] theorem State.countSeed_errStep (s : State) : (s.countSeed).errStep = s.errStep := (rfl)
@[simp] theorem State.countSeed_seqStep (s : State) : (s.countSeed).seqStep = s.seqStep := (rfl)
@[simp] theorem State.countSeed_tries (s : State) : (s.countSeed).tries = s.tries := (rfl)
@[simp] theorem State.countSeed_rxLen (s : State) : (s.countSeed).rxLen = s.rxLen := (rfl)
@[simp] theorem State.countSeed_txLen (s : State) : (s.countSeed).txLen = s.txLen := (rfl)
@[simp] theorem State.countSeed_serialLen (s : State) : (s.countSeed).serialLen = s.serialLen := (rfl)
@[simp] theorem State.countSeed_keyFlags (s : State) : (s.countSeed).keyFlags = s.keyFlags := (rfl)
@[simp] theorem State.countSeed_wkeyLen (s : State) : (s.countSeed).wkeyLen = s.wkeyLen := (rfl)
@[simp] theorem State.countSeed_rkeyLen (s : State) : (s.countSeed).rkeyLen = s.rkeyLen := (rfl)
@[simp] theorem State.countSeed_attkeyLen (s : State) : (s.countSeed).attkeyLen = s.attkeyLen := (rfl)
@[simp] theorem State.countSeed_filterLen (s : State) : (s.countSeed).filterLen = s.filterLen := (rfl)
@[simp] theorem State.countSeed_result (s : State) : (s.countSeed).result = s.result := (rfl)
@[simp] theorem State.countSeed_crcAcc (s : State) : (s.countSeed).crcAcc = s.crcAcc := (rfl)
@[simp] theorem State.countSeed_crcOut (s : State) : (s.countSeed).crcOut = s.crcOut := (rfl)
@[simp] theorem State.countSeed_seedCount (s : State) :
    (s.countSeed).seedCount = s.seedCount + s.chunkN.setWidth 32 := (rfl)
@[simp] theorem State.countSeed_rngCount (s : State) : (s.countSeed).rngCount = s.rngCount := (rfl)
@[simp] theorem State.countSeed_diagCount (s : State) : (s.countSeed).diagCount = s.diagCount := (rfl)
@[simp] theorem State.countSeed_lastDiag (s : State) : (s.countSeed).lastDiag = s.lastDiag := (rfl)
@[simp] theorem State.countSeed_mem (s : State) : (s.countSeed).mem = s.mem := (rfl)
@[simp] theorem State.countSeed_opl (s : State) : (s.countSeed).opl = s.opl := (rfl)
@[simp] theorem State.countSeed_al (s : State) : (s.countSeed).al = s.al := (rfl)
@[simp] theorem State.countSeed_bl (s : State) : (s.countSeed).bl = s.bl := (rfl)
@[simp] theorem State.countSeed_cl (s : State) : (s.countSeed).cl = s.cl := (rfl)
@[simp] theorem State.countSeed_phase (s : State) : (s.countSeed).phase = s.phase := (rfl)
@[simp] theorem State.countSeed_att (s : State) : (s.countSeed).att = s.att := (rfl)
@[simp] theorem State.countSeed_cancelReq (s : State) : (s.countSeed).cancelReq = s.cancelReq := (rfl)
@[simp] theorem State.countSeed_chunk (s : State) : (s.countSeed).chunk = s.chunk := (rfl)
@[simp] theorem State.countSeed_chunkN (s : State) : (s.countSeed).chunkN = s.chunkN := (rfl)
@[simp] theorem State.countSeed_session (s : State) : (s.countSeed).session = s.session := (rfl)
@[simp] theorem State.countSeed_outLog (s : State) : (s.countSeed).outLog = s.outLog := (rfl)
@[simp] theorem State.countSeed_linkLog (s : State) : (s.countSeed).linkLog = s.linkLog := (rfl)
@[simp] theorem State.countSeed_params (s : State) : (s.countSeed).params = s.params := (rfl)
@[simp] theorem State.countSeed_env (s : State) : (s.countSeed).env = s.env := (rfl)
@[simp] theorem State.countSeed_freeCount (s : State) : (s.countSeed).freeCount = s.freeCount := (rfl)
@[simp] theorem State.countSeed_sched (s : State) : (s.countSeed).sched = s.sched := (rfl)
@[simp] theorem State.countSeed_rdata (s : State) : (s.countSeed).rdata = s.rdata := (rfl)

/-! ## waitForInput -/

@[simp] theorem State.waitForInput_opc (s : State) : (s.waitForInput).opc = s.opc := (rfl)
@[simp] theorem State.waitForInput_argA (s : State) : (s.waitForInput).argA = s.argA := (rfl)
@[simp] theorem State.waitForInput_argB (s : State) : (s.waitForInput).argB = s.argB := (rfl)
@[simp] theorem State.waitForInput_argC (s : State) : (s.waitForInput).argC = s.argC := (rfl)
@[simp] theorem State.waitForInput_status (s : State) :
    (s.waitForInput).status = { s.status with waitin := true } := (rfl)
@[simp] theorem State.waitForInput_errCode (s : State) : (s.waitForInput).errCode = s.errCode := (rfl)
@[simp] theorem State.waitForInput_errStep (s : State) : (s.waitForInput).errStep = s.errStep := (rfl)
@[simp] theorem State.waitForInput_seqStep (s : State) : (s.waitForInput).seqStep = s.seqStep := (rfl)
@[simp] theorem State.waitForInput_tries (s : State) : (s.waitForInput).tries = s.tries := (rfl)
@[simp] theorem State.waitForInput_rxLen (s : State) : (s.waitForInput).rxLen = s.rxLen := (rfl)
@[simp] theorem State.waitForInput_txLen (s : State) : (s.waitForInput).txLen = s.txLen := (rfl)
@[simp] theorem State.waitForInput_serialLen (s : State) : (s.waitForInput).serialLen = s.serialLen := (rfl)
@[simp] theorem State.waitForInput_keyFlags (s : State) : (s.waitForInput).keyFlags = s.keyFlags := (rfl)
@[simp] theorem State.waitForInput_wkeyLen (s : State) : (s.waitForInput).wkeyLen = s.wkeyLen := (rfl)
@[simp] theorem State.waitForInput_rkeyLen (s : State) : (s.waitForInput).rkeyLen = s.rkeyLen := (rfl)
@[simp] theorem State.waitForInput_attkeyLen (s : State) : (s.waitForInput).attkeyLen = s.attkeyLen := (rfl)
@[simp] theorem State.waitForInput_filterLen (s : State) : (s.waitForInput).filterLen = s.filterLen := (rfl)
@[simp] theorem State.waitForInput_result (s : State) : (s.waitForInput).result = s.result := (rfl)
@[simp] theorem State.waitForInput_crcAcc (s : State) : (s.waitForInput).crcAcc = s.crcAcc := (rfl)
@[simp] theorem State.waitForInput_crcOut (s : State) : (s.waitForInput).crcOut = s.crcOut := (rfl)
@[simp] theorem State.waitForInput_seedCount (s : State) : (s.waitForInput).seedCount = s.seedCount := (rfl)
@[simp] theorem State.waitForInput_rngCount (s : State) : (s.waitForInput).rngCount = s.rngCount := (rfl)
@[simp] theorem State.waitForInput_diagCount (s : State) : (s.waitForInput).diagCount = s.diagCount := (rfl)
@[simp] theorem State.waitForInput_lastDiag (s : State) : (s.waitForInput).lastDiag = s.lastDiag := (rfl)
@[simp] theorem State.waitForInput_mem (s : State) : (s.waitForInput).mem = s.mem := (rfl)
@[simp] theorem State.waitForInput_opl (s : State) : (s.waitForInput).opl = s.opl := (rfl)
@[simp] theorem State.waitForInput_al (s : State) : (s.waitForInput).al = s.al := (rfl)
@[simp] theorem State.waitForInput_bl (s : State) : (s.waitForInput).bl = s.bl := (rfl)
@[simp] theorem State.waitForInput_cl (s : State) : (s.waitForInput).cl = s.cl := (rfl)
@[simp] theorem State.waitForInput_phase (s : State) : (s.waitForInput).phase = .input .afterInput := (rfl)
@[simp] theorem State.waitForInput_att (s : State) : (s.waitForInput).att = s.att := (rfl)
@[simp] theorem State.waitForInput_cancelReq (s : State) : (s.waitForInput).cancelReq = s.cancelReq := (rfl)
@[simp] theorem State.waitForInput_chunk (s : State) : (s.waitForInput).chunk = s.chunk := (rfl)
@[simp] theorem State.waitForInput_chunkN (s : State) : (s.waitForInput).chunkN = s.chunkN := (rfl)
@[simp] theorem State.waitForInput_session (s : State) : (s.waitForInput).session = s.session := (rfl)
@[simp] theorem State.waitForInput_outLog (s : State) : (s.waitForInput).outLog = s.outLog := (rfl)
@[simp] theorem State.waitForInput_linkLog (s : State) : (s.waitForInput).linkLog = s.linkLog := (rfl)
@[simp] theorem State.waitForInput_params (s : State) : (s.waitForInput).params = s.params := (rfl)
@[simp] theorem State.waitForInput_env (s : State) : (s.waitForInput).env = s.env := (rfl)
@[simp] theorem State.waitForInput_freeCount (s : State) : (s.waitForInput).freeCount = s.freeCount := (rfl)
@[simp] theorem State.waitForInput_sched (s : State) : (s.waitForInput).sched = s.sched := (rfl)
@[simp] theorem State.waitForInput_rdata (s : State) : (s.waitForInput).rdata = s.rdata := (rfl)

/-! ## countWipe -/

@[simp] theorem State.countWipe_opc (s : State) : (s.countWipe).opc = s.opc := (rfl)
@[simp] theorem State.countWipe_argA (s : State) : (s.countWipe).argA = s.argA := (rfl)
@[simp] theorem State.countWipe_argB (s : State) : (s.countWipe).argB = s.argB := (rfl)
@[simp] theorem State.countWipe_argC (s : State) : (s.countWipe).argC = s.argC := (rfl)
@[simp] theorem State.countWipe_status (s : State) : (s.countWipe).status = s.status := (rfl)
@[simp] theorem State.countWipe_errCode (s : State) : (s.countWipe).errCode = s.errCode := (rfl)
@[simp] theorem State.countWipe_errStep (s : State) : (s.countWipe).errStep = s.errStep := (rfl)
@[simp] theorem State.countWipe_seqStep (s : State) : (s.countWipe).seqStep = s.seqStep := (rfl)
@[simp] theorem State.countWipe_tries (s : State) : (s.countWipe).tries = satInc s.tries := (rfl)
@[simp] theorem State.countWipe_rxLen (s : State) : (s.countWipe).rxLen = s.rxLen := (rfl)
@[simp] theorem State.countWipe_txLen (s : State) : (s.countWipe).txLen = s.txLen := (rfl)
@[simp] theorem State.countWipe_serialLen (s : State) : (s.countWipe).serialLen = s.serialLen := (rfl)
@[simp] theorem State.countWipe_keyFlags (s : State) : (s.countWipe).keyFlags = s.keyFlags := (rfl)
@[simp] theorem State.countWipe_wkeyLen (s : State) : (s.countWipe).wkeyLen = s.wkeyLen := (rfl)
@[simp] theorem State.countWipe_rkeyLen (s : State) : (s.countWipe).rkeyLen = s.rkeyLen := (rfl)
@[simp] theorem State.countWipe_attkeyLen (s : State) : (s.countWipe).attkeyLen = s.attkeyLen := (rfl)
@[simp] theorem State.countWipe_filterLen (s : State) : (s.countWipe).filterLen = s.filterLen := (rfl)
@[simp] theorem State.countWipe_result (s : State) : (s.countWipe).result = s.result := (rfl)
@[simp] theorem State.countWipe_crcAcc (s : State) : (s.countWipe).crcAcc = s.crcAcc := (rfl)
@[simp] theorem State.countWipe_crcOut (s : State) : (s.countWipe).crcOut = s.crcOut := (rfl)
@[simp] theorem State.countWipe_seedCount (s : State) : (s.countWipe).seedCount = s.seedCount := (rfl)
@[simp] theorem State.countWipe_rngCount (s : State) : (s.countWipe).rngCount = s.rngCount := (rfl)
@[simp] theorem State.countWipe_diagCount (s : State) : (s.countWipe).diagCount = s.diagCount := (rfl)
@[simp] theorem State.countWipe_lastDiag (s : State) : (s.countWipe).lastDiag = s.lastDiag := (rfl)
@[simp] theorem State.countWipe_mem (s : State) : (s.countWipe).mem = s.mem := (rfl)
@[simp] theorem State.countWipe_opl (s : State) : (s.countWipe).opl = s.opl := (rfl)
@[simp] theorem State.countWipe_al (s : State) : (s.countWipe).al = s.al := (rfl)
@[simp] theorem State.countWipe_bl (s : State) : (s.countWipe).bl = s.bl := (rfl)
@[simp] theorem State.countWipe_cl (s : State) : (s.countWipe).cl = s.cl := (rfl)
@[simp] theorem State.countWipe_phase (s : State) : (s.countWipe).phase = s.phase := (rfl)
@[simp] theorem State.countWipe_att (s : State) : (s.countWipe).att = satInc s.att := (rfl)
@[simp] theorem State.countWipe_cancelReq (s : State) : (s.countWipe).cancelReq = s.cancelReq := (rfl)
@[simp] theorem State.countWipe_chunk (s : State) : (s.countWipe).chunk = s.chunk := (rfl)
@[simp] theorem State.countWipe_chunkN (s : State) : (s.countWipe).chunkN = s.chunkN := (rfl)
@[simp] theorem State.countWipe_session (s : State) : (s.countWipe).session = s.session := (rfl)
@[simp] theorem State.countWipe_outLog (s : State) : (s.countWipe).outLog = s.outLog := (rfl)
@[simp] theorem State.countWipe_linkLog (s : State) : (s.countWipe).linkLog = s.linkLog := (rfl)
@[simp] theorem State.countWipe_params (s : State) : (s.countWipe).params = s.params := (rfl)
@[simp] theorem State.countWipe_env (s : State) : (s.countWipe).env = s.env := (rfl)
@[simp] theorem State.countWipe_freeCount (s : State) : (s.countWipe).freeCount = s.freeCount := (rfl)
@[simp] theorem State.countWipe_sched (s : State) : (s.countWipe).sched = s.sched := (rfl)
@[simp] theorem State.countWipe_rdata (s : State) : (s.countWipe).rdata = s.rdata := (rfl)

/-! ## setResult -/

@[simp] theorem State.setResult_opc (r : Byte) (s : State) : (s.setResult r).opc = s.opc := (rfl)
@[simp] theorem State.setResult_argA (r : Byte) (s : State) : (s.setResult r).argA = s.argA := (rfl)
@[simp] theorem State.setResult_argB (r : Byte) (s : State) : (s.setResult r).argB = s.argB := (rfl)
@[simp] theorem State.setResult_argC (r : Byte) (s : State) : (s.setResult r).argC = s.argC := (rfl)
@[simp] theorem State.setResult_status (r : Byte) (s : State) : (s.setResult r).status = s.status := (rfl)
@[simp] theorem State.setResult_errCode (r : Byte) (s : State) : (s.setResult r).errCode = s.errCode := (rfl)
@[simp] theorem State.setResult_errStep (r : Byte) (s : State) : (s.setResult r).errStep = s.errStep := (rfl)
@[simp] theorem State.setResult_seqStep (r : Byte) (s : State) : (s.setResult r).seqStep = s.seqStep := (rfl)
@[simp] theorem State.setResult_tries (r : Byte) (s : State) : (s.setResult r).tries = s.tries := (rfl)
@[simp] theorem State.setResult_rxLen (r : Byte) (s : State) : (s.setResult r).rxLen = s.rxLen := (rfl)
@[simp] theorem State.setResult_txLen (r : Byte) (s : State) : (s.setResult r).txLen = s.txLen := (rfl)
@[simp] theorem State.setResult_serialLen (r : Byte) (s : State) :
    (s.setResult r).serialLen = s.serialLen := (rfl)
@[simp] theorem State.setResult_keyFlags (r : Byte) (s : State) :
    (s.setResult r).keyFlags = s.keyFlags := (rfl)
@[simp] theorem State.setResult_wkeyLen (r : Byte) (s : State) : (s.setResult r).wkeyLen = s.wkeyLen := (rfl)
@[simp] theorem State.setResult_rkeyLen (r : Byte) (s : State) : (s.setResult r).rkeyLen = s.rkeyLen := (rfl)
@[simp] theorem State.setResult_attkeyLen (r : Byte) (s : State) :
    (s.setResult r).attkeyLen = s.attkeyLen := (rfl)
@[simp] theorem State.setResult_filterLen (r : Byte) (s : State) :
    (s.setResult r).filterLen = s.filterLen := (rfl)
@[simp] theorem State.setResult_result (r : Byte) (s : State) : (s.setResult r).result = r := (rfl)
@[simp] theorem State.setResult_crcAcc (r : Byte) (s : State) : (s.setResult r).crcAcc = s.crcAcc := (rfl)
@[simp] theorem State.setResult_crcOut (r : Byte) (s : State) : (s.setResult r).crcOut = s.crcOut := (rfl)
@[simp] theorem State.setResult_seedCount (r : Byte) (s : State) :
    (s.setResult r).seedCount = s.seedCount := (rfl)
@[simp] theorem State.setResult_rngCount (r : Byte) (s : State) :
    (s.setResult r).rngCount = s.rngCount := (rfl)
@[simp] theorem State.setResult_diagCount (r : Byte) (s : State) :
    (s.setResult r).diagCount = s.diagCount := (rfl)
@[simp] theorem State.setResult_lastDiag (r : Byte) (s : State) :
    (s.setResult r).lastDiag = s.lastDiag := (rfl)
@[simp] theorem State.setResult_mem (r : Byte) (s : State) : (s.setResult r).mem = s.mem := (rfl)
@[simp] theorem State.setResult_opl (r : Byte) (s : State) : (s.setResult r).opl = s.opl := (rfl)
@[simp] theorem State.setResult_al (r : Byte) (s : State) : (s.setResult r).al = s.al := (rfl)
@[simp] theorem State.setResult_bl (r : Byte) (s : State) : (s.setResult r).bl = s.bl := (rfl)
@[simp] theorem State.setResult_cl (r : Byte) (s : State) : (s.setResult r).cl = s.cl := (rfl)
@[simp] theorem State.setResult_phase (r : Byte) (s : State) : (s.setResult r).phase = s.phase := (rfl)
@[simp] theorem State.setResult_att (r : Byte) (s : State) : (s.setResult r).att = s.att := (rfl)
@[simp] theorem State.setResult_cancelReq (r : Byte) (s : State) :
    (s.setResult r).cancelReq = s.cancelReq := (rfl)
@[simp] theorem State.setResult_chunk (r : Byte) (s : State) : (s.setResult r).chunk = s.chunk := (rfl)
@[simp] theorem State.setResult_chunkN (r : Byte) (s : State) : (s.setResult r).chunkN = s.chunkN := (rfl)
@[simp] theorem State.setResult_session (r : Byte) (s : State) : (s.setResult r).session = s.session := (rfl)
@[simp] theorem State.setResult_outLog (r : Byte) (s : State) : (s.setResult r).outLog = s.outLog := (rfl)
@[simp] theorem State.setResult_linkLog (r : Byte) (s : State) : (s.setResult r).linkLog = s.linkLog := (rfl)
@[simp] theorem State.setResult_params (r : Byte) (s : State) : (s.setResult r).params = s.params := (rfl)
@[simp] theorem State.setResult_env (r : Byte) (s : State) : (s.setResult r).env = s.env := (rfl)
@[simp] theorem State.setResult_freeCount (r : Byte) (s : State) :
    (s.setResult r).freeCount = s.freeCount := (rfl)
@[simp] theorem State.setResult_sched (r : Byte) (s : State) : (s.setResult r).sched = s.sched := (rfl)
@[simp] theorem State.setResult_rdata (r : Byte) (s : State) : (s.setResult r).rdata = s.rdata := (rfl)

/-! ## atLoopTop -/

@[simp] theorem State.atLoopTop_opc (s : State) : (s.atLoopTop).opc = s.opc := (rfl)
@[simp] theorem State.atLoopTop_argA (s : State) : (s.atLoopTop).argA = s.argA := (rfl)
@[simp] theorem State.atLoopTop_argB (s : State) : (s.atLoopTop).argB = s.argB := (rfl)
@[simp] theorem State.atLoopTop_argC (s : State) : (s.atLoopTop).argC = s.argC := (rfl)
@[simp] theorem State.atLoopTop_status (s : State) : (s.atLoopTop).status = s.status := (rfl)
@[simp] theorem State.atLoopTop_errCode (s : State) : (s.atLoopTop).errCode = s.errCode := (rfl)
@[simp] theorem State.atLoopTop_errStep (s : State) : (s.atLoopTop).errStep = s.errStep := (rfl)
@[simp] theorem State.atLoopTop_seqStep (s : State) : (s.atLoopTop).seqStep = s.seqStep := (rfl)
@[simp] theorem State.atLoopTop_tries (s : State) : (s.atLoopTop).tries = s.tries := (rfl)
@[simp] theorem State.atLoopTop_rxLen (s : State) : (s.atLoopTop).rxLen = s.rxLen := (rfl)
@[simp] theorem State.atLoopTop_txLen (s : State) : (s.atLoopTop).txLen = s.txLen := (rfl)
@[simp] theorem State.atLoopTop_serialLen (s : State) : (s.atLoopTop).serialLen = s.serialLen := (rfl)
@[simp] theorem State.atLoopTop_keyFlags (s : State) : (s.atLoopTop).keyFlags = s.keyFlags := (rfl)
@[simp] theorem State.atLoopTop_wkeyLen (s : State) : (s.atLoopTop).wkeyLen = s.wkeyLen := (rfl)
@[simp] theorem State.atLoopTop_rkeyLen (s : State) : (s.atLoopTop).rkeyLen = s.rkeyLen := (rfl)
@[simp] theorem State.atLoopTop_attkeyLen (s : State) : (s.atLoopTop).attkeyLen = s.attkeyLen := (rfl)
@[simp] theorem State.atLoopTop_filterLen (s : State) : (s.atLoopTop).filterLen = s.filterLen := (rfl)
@[simp] theorem State.atLoopTop_result (s : State) : (s.atLoopTop).result = s.result := (rfl)
@[simp] theorem State.atLoopTop_crcAcc (s : State) : (s.atLoopTop).crcAcc = s.crcAcc := (rfl)
@[simp] theorem State.atLoopTop_crcOut (s : State) : (s.atLoopTop).crcOut = s.crcOut := (rfl)
@[simp] theorem State.atLoopTop_seedCount (s : State) : (s.atLoopTop).seedCount = s.seedCount := (rfl)
@[simp] theorem State.atLoopTop_rngCount (s : State) : (s.atLoopTop).rngCount = s.rngCount := (rfl)
@[simp] theorem State.atLoopTop_diagCount (s : State) : (s.atLoopTop).diagCount = s.diagCount := (rfl)
@[simp] theorem State.atLoopTop_lastDiag (s : State) : (s.atLoopTop).lastDiag = s.lastDiag := (rfl)
@[simp] theorem State.atLoopTop_mem (s : State) : (s.atLoopTop).mem = s.mem := (rfl)
@[simp] theorem State.atLoopTop_opl (s : State) : (s.atLoopTop).opl = s.opl := (rfl)
@[simp] theorem State.atLoopTop_al (s : State) : (s.atLoopTop).al = s.al := (rfl)
@[simp] theorem State.atLoopTop_bl (s : State) : (s.atLoopTop).bl = s.bl := (rfl)
@[simp] theorem State.atLoopTop_cl (s : State) : (s.atLoopTop).cl = s.cl := (rfl)
@[simp] theorem State.atLoopTop_phase (s : State) : (s.atLoopTop).phase = .ready .loopTop := (rfl)
@[simp] theorem State.atLoopTop_att (s : State) : (s.atLoopTop).att = s.att := (rfl)
@[simp] theorem State.atLoopTop_cancelReq (s : State) : (s.atLoopTop).cancelReq = s.cancelReq := (rfl)
@[simp] theorem State.atLoopTop_chunk (s : State) : (s.atLoopTop).chunk = s.chunk := (rfl)
@[simp] theorem State.atLoopTop_chunkN (s : State) : (s.atLoopTop).chunkN = s.chunkN := (rfl)
@[simp] theorem State.atLoopTop_session (s : State) : (s.atLoopTop).session = s.session := (rfl)
@[simp] theorem State.atLoopTop_outLog (s : State) : (s.atLoopTop).outLog = s.outLog := (rfl)
@[simp] theorem State.atLoopTop_linkLog (s : State) : (s.atLoopTop).linkLog = s.linkLog := (rfl)
@[simp] theorem State.atLoopTop_params (s : State) : (s.atLoopTop).params = s.params := (rfl)
@[simp] theorem State.atLoopTop_env (s : State) : (s.atLoopTop).env = s.env := (rfl)
@[simp] theorem State.atLoopTop_freeCount (s : State) : (s.atLoopTop).freeCount = s.freeCount := (rfl)
@[simp] theorem State.atLoopTop_sched (s : State) : (s.atLoopTop).sched = s.sched := (rfl)
@[simp] theorem State.atLoopTop_rdata (s : State) : (s.atLoopTop).rdata = s.rdata := (rfl)

/-! ## openSession -/

@[simp] theorem State.openSession_opc (d : Token) (s : State) : (s.openSession d).opc = s.opc := (rfl)
@[simp] theorem State.openSession_argA (d : Token) (s : State) : (s.openSession d).argA = s.argA := (rfl)
@[simp] theorem State.openSession_argB (d : Token) (s : State) : (s.openSession d).argB = s.argB := (rfl)
@[simp] theorem State.openSession_argC (d : Token) (s : State) : (s.openSession d).argC = s.argC := (rfl)
@[simp] theorem State.openSession_status (d : Token) (s : State) :
    (s.openSession d).status = { s.status with opened := true } := (rfl)
@[simp] theorem State.openSession_errCode (d : Token) (s : State) :
    (s.openSession d).errCode = s.errCode := (rfl)
@[simp] theorem State.openSession_errStep (d : Token) (s : State) :
    (s.openSession d).errStep = s.errStep := (rfl)
@[simp] theorem State.openSession_seqStep (d : Token) (s : State) :
    (s.openSession d).seqStep = s.seqStep := (rfl)
@[simp] theorem State.openSession_tries (d : Token) (s : State) : (s.openSession d).tries = s.tries := (rfl)
@[simp] theorem State.openSession_rxLen (d : Token) (s : State) : (s.openSession d).rxLen = s.rxLen := (rfl)
@[simp] theorem State.openSession_txLen (d : Token) (s : State) : (s.openSession d).txLen = s.txLen := (rfl)
@[simp] theorem State.openSession_serialLen (d : Token) (s : State) :
    (s.openSession d).serialLen = s.serialLen := (rfl)
@[simp] theorem State.openSession_keyFlags (d : Token) (s : State) :
    (s.openSession d).keyFlags = s.keyFlags := (rfl)
@[simp] theorem State.openSession_wkeyLen (d : Token) (s : State) :
    (s.openSession d).wkeyLen = s.wkeyLen := (rfl)
@[simp] theorem State.openSession_rkeyLen (d : Token) (s : State) :
    (s.openSession d).rkeyLen = s.rkeyLen := (rfl)
@[simp] theorem State.openSession_attkeyLen (d : Token) (s : State) :
    (s.openSession d).attkeyLen = s.attkeyLen := (rfl)
@[simp] theorem State.openSession_filterLen (d : Token) (s : State) :
    (s.openSession d).filterLen = s.filterLen := (rfl)
@[simp] theorem State.openSession_result (d : Token) (s : State) :
    (s.openSession d).result = s.result := (rfl)
@[simp] theorem State.openSession_crcAcc (d : Token) (s : State) :
    (s.openSession d).crcAcc = s.crcAcc := (rfl)
@[simp] theorem State.openSession_crcOut (d : Token) (s : State) :
    (s.openSession d).crcOut = s.crcOut := (rfl)
@[simp] theorem State.openSession_seedCount (d : Token) (s : State) :
    (s.openSession d).seedCount = s.seedCount := (rfl)
@[simp] theorem State.openSession_rngCount (d : Token) (s : State) :
    (s.openSession d).rngCount = s.rngCount := (rfl)
@[simp] theorem State.openSession_diagCount (d : Token) (s : State) :
    (s.openSession d).diagCount = s.diagCount := (rfl)
@[simp] theorem State.openSession_lastDiag (d : Token) (s : State) :
    (s.openSession d).lastDiag = s.lastDiag := (rfl)
@[simp] theorem State.openSession_mem (d : Token) (s : State) : (s.openSession d).mem = s.mem := (rfl)
@[simp] theorem State.openSession_opl (d : Token) (s : State) : (s.openSession d).opl = s.opl := (rfl)
@[simp] theorem State.openSession_al (d : Token) (s : State) : (s.openSession d).al = s.al := (rfl)
@[simp] theorem State.openSession_bl (d : Token) (s : State) : (s.openSession d).bl = s.bl := (rfl)
@[simp] theorem State.openSession_cl (d : Token) (s : State) : (s.openSession d).cl = s.cl := (rfl)
@[simp] theorem State.openSession_phase (d : Token) (s : State) : (s.openSession d).phase = s.phase := (rfl)
@[simp] theorem State.openSession_att (d : Token) (s : State) : (s.openSession d).att = s.att := (rfl)
@[simp] theorem State.openSession_cancelReq (d : Token) (s : State) :
    (s.openSession d).cancelReq = s.cancelReq := (rfl)
@[simp] theorem State.openSession_chunk (d : Token) (s : State) : (s.openSession d).chunk = s.chunk := (rfl)
@[simp] theorem State.openSession_chunkN (d : Token) (s : State) :
    (s.openSession d).chunkN = s.chunkN := (rfl)
@[simp] theorem State.openSession_session (d : Token) (s : State) :
    (s.openSession d).session = some d := (rfl)
@[simp] theorem State.openSession_outLog (d : Token) (s : State) :
    (s.openSession d).outLog = s.outLog := (rfl)
@[simp] theorem State.openSession_linkLog (d : Token) (s : State) :
    (s.openSession d).linkLog = s.linkLog := (rfl)
@[simp] theorem State.openSession_params (d : Token) (s : State) :
    (s.openSession d).params = s.params := (rfl)
@[simp] theorem State.openSession_env (d : Token) (s : State) : (s.openSession d).env = s.env := (rfl)
@[simp] theorem State.openSession_freeCount (d : Token) (s : State) :
    (s.openSession d).freeCount = s.freeCount := (rfl)
@[simp] theorem State.openSession_sched (d : Token) (s : State) : (s.openSession d).sched = s.sched := (rfl)
@[simp] theorem State.openSession_rdata (d : Token) (s : State) : (s.openSession d).rdata = s.rdata := (rfl)

/-! ## commitChunk -/

@[simp] theorem State.commitChunk_opc (n : Byte) (s : State) : (s.commitChunk n).opc = s.opc := (rfl)
@[simp] theorem State.commitChunk_argA (n : Byte) (s : State) : (s.commitChunk n).argA = s.argA := (rfl)
@[simp] theorem State.commitChunk_argB (n : Byte) (s : State) : (s.commitChunk n).argB = s.argB := (rfl)
@[simp] theorem State.commitChunk_argC (n : Byte) (s : State) : (s.commitChunk n).argC = s.argC := (rfl)
@[simp] theorem State.commitChunk_status (n : Byte) (s : State) :
    (s.commitChunk n).status = { s.status with waitin := false } := (rfl)
@[simp] theorem State.commitChunk_errCode (n : Byte) (s : State) :
    (s.commitChunk n).errCode = s.errCode := (rfl)
@[simp] theorem State.commitChunk_errStep (n : Byte) (s : State) :
    (s.commitChunk n).errStep = s.errStep := (rfl)
@[simp] theorem State.commitChunk_seqStep (n : Byte) (s : State) :
    (s.commitChunk n).seqStep = s.seqStep := (rfl)
@[simp] theorem State.commitChunk_tries (n : Byte) (s : State) : (s.commitChunk n).tries = s.tries := (rfl)
@[simp] theorem State.commitChunk_rxLen (n : Byte) (s : State) : (s.commitChunk n).rxLen = s.rxLen := (rfl)
@[simp] theorem State.commitChunk_txLen (n : Byte) (s : State) : (s.commitChunk n).txLen = s.txLen := (rfl)
@[simp] theorem State.commitChunk_serialLen (n : Byte) (s : State) :
    (s.commitChunk n).serialLen = s.serialLen := (rfl)
@[simp] theorem State.commitChunk_keyFlags (n : Byte) (s : State) :
    (s.commitChunk n).keyFlags = s.keyFlags := (rfl)
@[simp] theorem State.commitChunk_wkeyLen (n : Byte) (s : State) :
    (s.commitChunk n).wkeyLen = s.wkeyLen := (rfl)
@[simp] theorem State.commitChunk_rkeyLen (n : Byte) (s : State) :
    (s.commitChunk n).rkeyLen = s.rkeyLen := (rfl)
@[simp] theorem State.commitChunk_attkeyLen (n : Byte) (s : State) :
    (s.commitChunk n).attkeyLen = s.attkeyLen := (rfl)
@[simp] theorem State.commitChunk_filterLen (n : Byte) (s : State) :
    (s.commitChunk n).filterLen = s.filterLen := (rfl)
@[simp] theorem State.commitChunk_result (n : Byte) (s : State) : (s.commitChunk n).result = s.result := (rfl)
@[simp] theorem State.commitChunk_crcAcc (n : Byte) (s : State) : (s.commitChunk n).crcAcc = s.crcAcc := (rfl)
@[simp] theorem State.commitChunk_crcOut (n : Byte) (s : State) : (s.commitChunk n).crcOut = s.crcOut := (rfl)
@[simp] theorem State.commitChunk_seedCount (n : Byte) (s : State) :
    (s.commitChunk n).seedCount = s.seedCount := (rfl)
@[simp] theorem State.commitChunk_rngCount (n : Byte) (s : State) :
    (s.commitChunk n).rngCount = s.rngCount := (rfl)
@[simp] theorem State.commitChunk_diagCount (n : Byte) (s : State) :
    (s.commitChunk n).diagCount = s.diagCount := (rfl)
@[simp] theorem State.commitChunk_lastDiag (n : Byte) (s : State) :
    (s.commitChunk n).lastDiag = s.lastDiag := (rfl)
@[simp] theorem State.commitChunk_mem (n : Byte) (s : State) : (s.commitChunk n).mem = s.mem := (rfl)
@[simp] theorem State.commitChunk_opl (n : Byte) (s : State) : (s.commitChunk n).opl = s.opl := (rfl)
@[simp] theorem State.commitChunk_al (n : Byte) (s : State) : (s.commitChunk n).al = s.al := (rfl)
@[simp] theorem State.commitChunk_bl (n : Byte) (s : State) : (s.commitChunk n).bl = s.bl := (rfl)
@[simp] theorem State.commitChunk_cl (n : Byte) (s : State) : (s.commitChunk n).cl = s.cl := (rfl)
@[simp] theorem State.commitChunk_phase (n : Byte) (s : State) : (s.commitChunk n).phase = s.phase := (rfl)
@[simp] theorem State.commitChunk_att (n : Byte) (s : State) : (s.commitChunk n).att = s.att := (rfl)
@[simp] theorem State.commitChunk_cancelReq (n : Byte) (s : State) :
    (s.commitChunk n).cancelReq = s.cancelReq := (rfl)
@[simp] theorem State.commitChunk_chunk (n : Byte) (s : State) :
    (s.commitChunk n).chunk = s.buf chunkBase n.toNat := (rfl)
@[simp] theorem State.commitChunk_chunkN (n : Byte) (s : State) : (s.commitChunk n).chunkN = n := (rfl)
@[simp] theorem State.commitChunk_session (n : Byte) (s : State) :
    (s.commitChunk n).session = s.session := (rfl)
@[simp] theorem State.commitChunk_outLog (n : Byte) (s : State) : (s.commitChunk n).outLog = s.outLog := (rfl)
@[simp] theorem State.commitChunk_linkLog (n : Byte) (s : State) :
    (s.commitChunk n).linkLog = s.linkLog := (rfl)
@[simp] theorem State.commitChunk_params (n : Byte) (s : State) : (s.commitChunk n).params = s.params := (rfl)
@[simp] theorem State.commitChunk_env (n : Byte) (s : State) : (s.commitChunk n).env = s.env := (rfl)
@[simp] theorem State.commitChunk_freeCount (n : Byte) (s : State) :
    (s.commitChunk n).freeCount = s.freeCount := (rfl)
@[simp] theorem State.commitChunk_sched (n : Byte) (s : State) : (s.commitChunk n).sched = s.sched := (rfl)
@[simp] theorem State.commitChunk_rdata (n : Byte) (s : State) : (s.commitChunk n).rdata = s.rdata := (rfl)

end Sys2Proof.Machine
end

