-- ==== Sys2Proof/Laws/Window.lean ====
section
/-! SUPPORT. The laws of the window: where a byte the HOST reads comes from, and when two states show the
HOST the same byte. -/

namespace Sys2Proof.Machine

theorem readByte_register (s : State) (off : Offset) (h : off.toNat < 0x040) :
    s.readByte off = readRegister s off.toNat := by
  unfold State.readByte
  rw [if_pos h]

theorem readByte_buffer (s : State) (off : Offset) (h1 : 0x040 ≤ off.toNat) (h2 : off.toNat < 0x380)
    (h3 : accessOf off.toNat ≠ .reserved) : s.readByte off = Memory.read s.mem off.toNat := by
  unfold State.readByte
  rw [if_neg (by omega), if_neg (by omega), if_neg h3]

theorem readByte_template (s : State) (off : Offset) (h : 0x380 ≤ off.toNat) :
    s.readByte off = s.params.template.toList.getD (off.toNat - 0x380) 0 := by
  unfold State.readByte
  rw [if_neg (by omega), if_pos (by omega)]

theorem readByte_reserved (s : State) (off : Offset) (h1 : 0x040 ≤ off.toNat) (h2 : off.toNat < 0x380)
    (h3 : accessOf off.toNat = .reserved) : s.readByte off = 0x00 := by
  unfold State.readByte
  rw [if_neg (by omega), if_neg (by omega), if_pos h3]

/-- Two states show the HOST the same byte where their registers, their memory at that offset and their
parameters agree. -/
theorem readByte_congr {s t : State} {off : Offset}
    (hreg : off.toNat < 0x040 → readRegister t off.toNat = readRegister s off.toNat)
    (hmem : Memory.read t.mem off.toNat = Memory.read s.mem off.toNat)
    (hpar : t.params = s.params) : t.readByte off = s.readByte off := by
  unfold State.readByte
  split
  · next h => exact hreg h
  · rw [hmem, hpar]

/-- A byte below 0x040 is a register's: what a write of the buffers does not change. -/
@[simp] theorem readRegister_setBuf (s : State) (base : Nat) (bs : List Byte) (a : Nat) :
    readRegister (s.setBuf base bs) a = readRegister s a := (rfl)

/-- A buffer's offsets are those from its base on that lie in no reserved hole. -/
theorem windowBytes_eq_buf (s : State) (base n : Nat) (h1 : 0x040 ≤ base) (h2 : base + n ≤ 0x380)
    (h3 : ∀ a, base ≤ a → a < base + n → accessOf a ≠ .reserved) :
    windowBytes s base n = s.buf base n := by
  unfold windowBytes State.buf Memory.readBytes
  apply List.map_congr_left
  intro i hi
  have hi := List.mem_range.mp hi
  have hn : (BitVec.ofNat 10 (base + i)).toNat = base + i := by
    rw [BitVec.toNat_ofNat]; omega
  rw [readByte_buffer s _ (by omega) (by omega) (by rw [hn]; exact h3 _ (by omega) (by omega)), hn]

theorem inRanges_cons (r : Nat × Nat) (rs : List (Nat × Nat)) (a : Nat) :
    inRanges (r :: rs) a = false ↔ ¬ (r.1 ≤ a ∧ a < r.1 + r.2) ∧ inRanges rs a = false := by
  simp [inRanges]

@[simp] theorem inRanges_nil (a : Nat) : inRanges [] a = false := rfl

/-- The reserved offsets of the window are the holes of the map (10_state.md R15, R51). -/
theorem accessOf_reserved_iff : ∀ a < 0x400, (accessOf a = .reserved ↔
    (0x025 ≤ a ∧ a ≤ 0x03F) ∨ (0x284 ≤ a ∧ a ≤ 0x29F) ∨ (0x2C4 ≤ a ∧ a ≤ 0x2DF) ∨
      (0x334 ≤ a ∧ a ≤ 0x33F)) := by
  decide +kernel

/-- The offsets a HOST reads and writes (10_state.md R15). -/
theorem accessOf_rw_iff : ∀ a < 0x400, (accessOf a = .rw ↔
    a ≤ 0x003 ∨ (0x00C ≤ a ∧ a ≤ 0x011) ∨ (0x0C0 ≤ a ∧ a ≤ 0x25F) ∨ (0x320 ≤ a ∧ a ≤ 0x333) ∨
      (0x340 ≤ a ∧ a ≤ 0x37F)) := by
  decide +kernel

/-- The write-only offsets are CTRL and SEED_IN (10_state.md R15). -/
theorem accessOf_wo_iff : ∀ a < 0x400, (accessOf a = .wo ↔ a = 0x008 ∨ a = 0x013) := by
  decide +kernel

/-- What an access class is, read from the other three. -/
theorem accessOf_ro_of {a : Nat} (h1 : accessOf a ≠ .rw) (h2 : accessOf a ≠ .wo)
    (h3 : accessOf a ≠ .reserved) : accessOf a = .ro := by
  cases h : accessOf a <;> simp_all

end Sys2Proof.Machine
end

