-- ==== Sys2Proof/Laws/Ops.lean ====
section
/-! SUPPORT. For each shared operation, once, everything it can do: what of the window it changes, and what
the helpers that choose between a fault and going on can answer. -/

namespace Sys2Proof.Machine

/-! ## Padding and the sizes of frames -/

theorem pad64_of_le {bs : List Byte} (h : bs.length ≤ 64) :
    pad64 bs = bs ++ List.replicate (64 - bs.length) 0 := by
  unfold pad64
  exact List.take_of_length_le (by simp; omega)

@[simp] theorem pad64_length (bs : List Byte) : (pad64 bs).length = 64 := by
  simp [pad64]; omega

@[simp] theorem shortBytes_length (c : Byte) (p : List Byte) : (shortBytes c p).length = p.length + 2 := by
  simp [shortBytes]

@[simp] theorem bcntBytes_length (bcnt : Bool) (n : Nat) :
    (bcntBytes bcnt n).length = if bcnt then 2 else 0 := by
  cases bcnt <;> rfl

@[simp] theorem longBytes_length (bcnt : Bool) (c : Byte) (p : List Byte) :
    (longBytes bcnt c p).length = p.length + (if bcnt then 8 else 6) := by
  cases bcnt <;> simp [longBytes]
  omega

@[simp] theorem buf_length (s : State) (base n : Nat) : (s.buf base n).length = n := by
  simp [State.buf]

theorem buf_getElem (s : State) (base n i : Nat) (h : i < (s.buf base n).length) :
    (s.buf base n)[i] = Memory.read s.mem (base + i) := by
  simp [State.buf, Memory.readBytes]

/-! ## Registers an operation leaves alone -/

theorem readRegister_finish (s : State) (a : Nat) (h : a ≠ 0x004) :
    readRegister s.finish a = readRegister s a := by
  unfold readRegister; split <;> first | rfl | exact absurd rfl h

theorem readRegister_raise (e : ErrName) (s : State) (a : Nat) (h : a < 0x004 ∨ 0x006 < a) :
    readRegister (s.raise e) a = readRegister s a := by
  unfold readRegister; split <;> first | rfl | omega

theorem readRegister_transmit (bs : List Byte) (s : State) (a : Nat) (h : a ≠ 0x00B) :
    readRegister (s.transmit bs) a = readRegister s a := by
  unfold readRegister; split <;> first | rfl | exact absurd rfl h

theorem readRegister_capture (o : RxOutcome) (s : State) (a : Nat)
    (h : a ≠ 0x004 ∧ a ≠ 0x00A ∧ a ≠ 0x012) :
    readRegister (s.capture o) a = readRegister s a := by
  unfold readRegister; split <;> first | rfl | omega

theorem readRegister_receive (o : RxOutcome) (s : State) (a : Nat)
    (h : a ≠ 0x004 ∧ a ≠ 0x00A ∧ a ≠ 0x012) :
    readRegister (s.receive o) a = readRegister s a := by
  unfold readRegister; split <;> first | rfl | omega

theorem readRegister_issue (v : Byte) (s : State) (a : Nat)
    (h : a ≠ 0x000 ∧ (a < 0x004 ∨ 0x006 < a)) :
    readRegister (s.issue v) a = readRegister s a := by
  unfold readRegister; split <;> first | rfl | omega

theorem readRegister_diag (e : ErrName) (s : State) (a : Nat) (h : a < 0x020 ∨ 0x024 < a) :
    readRegister (s.diag e) a = readRegister s a := by
  unfold readRegister; split <;> first | rfl | omega

theorem readRegister_attempt (k : Byte) (s : State) (a : Nat) (h : a ≠ 0x009) :
    readRegister (s.attempt k) a = readRegister s a := by
  unfold readRegister; split <;> first | rfl | exact absurd rfl h

theorem readRegister_enterStep (k : Byte) (s : State) (a : Nat) (h : a ≠ 0x007) :
    readRegister (s.enterStep k) a = readRegister s a := by
  unfold readRegister; split <;> first | rfl | exact absurd rfl h

theorem readRegister_setCrcAcc (x : Word16) (s : State) (a : Nat) (h : a < 0x014 ∨ 0x015 < a) :
    readRegister (s.setCrcAcc x) a = readRegister s a := by
  unfold readRegister; split <;> first | rfl | omega

theorem readRegister_setCrcOut (x : Word16) (s : State) (a : Nat) (h : a < 0x016 ∨ 0x017 < a) :
    readRegister (s.setCrcOut x) a = readRegister s a := by
  unfold readRegister; split <;> first | rfl | omega

theorem readRegister_crcBlob (s : State) (a : Nat) (h : a < 0x014 ∨ 0x017 < a) :
    readRegister s.crcBlob a = readRegister s a := by
  unfold State.crcBlob
  rw [readRegister_setCrcOut _ _ _ (by omega), readRegister_setCrcAcc _ _ _ (by omega)]

theorem readRegister_setTries (n : Byte) (s : State) (a : Nat) (h : a ≠ 0x009) :
    readRegister (s.setTries n) a = readRegister s a := by
  unfold readRegister; split <;> first | rfl | exact absurd rfl h

theorem readRegister_setAttempt (n : Byte) (s : State) (a : Nat) (h : a ≠ 0x009) :
    readRegister (s.setAttempt n) a = readRegister s a := by
  unfold readRegister; split <;> first | rfl | exact absurd rfl h

theorem readRegister_setSerialLen (n : Byte) (s : State) (a : Nat) (h : a ≠ 0x00C) :
    readRegister (s.setSerialLen n) a = readRegister s a := by
  unfold readRegister; split <;> first | rfl | exact absurd rfl h

theorem readRegister_setWkeyLen (n : Byte) (s : State) (a : Nat) (h : a ≠ 0x00E) :
    readRegister (s.setWkeyLen n) a = readRegister s a := by
  unfold readRegister; split <;> first | rfl | exact absurd rfl h

theorem readRegister_setRkeyLen (n : Byte) (s : State) (a : Nat) (h : a ≠ 0x00F) :
    readRegister (s.setRkeyLen n) a = readRegister s a := by
  unfold readRegister; split <;> first | rfl | exact absurd rfl h

theorem readRegister_setResult (r : Byte) (s : State) (a : Nat) (h : a ≠ 0x012) :
    readRegister (s.setResult r) a = readRegister s a := by
  unfold readRegister; split <;> first | rfl | exact absurd rfl h

theorem readRegister_setOutv (s : State) (a : Nat) (h : a ≠ 0x004) :
    readRegister s.setOutv a = readRegister s a := by
  unfold readRegister; split <;> first | rfl | exact absurd rfl h

theorem readRegister_openSession (d : Token) (s : State) (a : Nat) (h : a ≠ 0x004) :
    readRegister (s.openSession d) a = readRegister s a := by
  unfold readRegister; split <;> first | rfl | exact absurd rfl h

theorem readRegister_closeSession (s : State) (a : Nat) (h : a ≠ 0x004) :
    readRegister s.closeSession a = readRegister s a := by
  unfold readRegister; split <;> first | rfl | exact absurd rfl h

theorem readRegister_beginConfigure (s : State) (a : Nat) (h : a ≠ 0x004 ∧ a ≠ 0x007) :
    readRegister s.beginConfigure a = readRegister s a := by
  unfold readRegister; split <;> first | rfl | omega

theorem readRegister_countWipe (s : State) (a : Nat) (h : a ≠ 0x009) :
    readRegister s.countWipe a = readRegister s a := by
  unfold readRegister; split <;> first | rfl | exact absurd rfl h

theorem readRegister_waitForInput (s : State) (a : Nat) (h : a ≠ 0x004) :
    readRegister s.waitForInput a = readRegister s a := by
  unfold readRegister; split <;> first | rfl | exact absurd rfl h

theorem readRegister_countRng (s : State) (a : Nat) (h : a < 0x01C ∨ 0x01F < a) :
    readRegister s.countRng a = readRegister s a := by
  unfold readRegister; split <;> first | rfl | omega

theorem readRegister_countSeed (s : State) (a : Nat) (h : a < 0x018 ∨ 0x01B < a) :
    readRegister s.countSeed a = readRegister s a := by
  unfold readRegister; split <;> first | rfl | omega

theorem readRegister_zeroRngCounts (s : State) (a : Nat) (h : a < 0x01C ∨ 0x023 < a) :
    readRegister s.zeroRngCounts a = readRegister s a := by
  unfold readRegister; split <;> first | rfl | omega

theorem readRegister_zeroSeedCounts (s : State) (a : Nat)
    (h : a < 0x018 ∨ (0x01B < a ∧ a < 0x020) ∨ 0x023 < a) :
    readRegister s.zeroSeedCounts a = readRegister s a := by
  unfold readRegister; split <;> first | rfl | omega

@[simp] theorem readRegister_clearCancel (s : State) (a : Nat) :
    readRegister s.clearCancel a = readRegister s a := (rfl)

@[simp] theorem readRegister_awaitFor (t : Timeout) (s : State) (a : Nat) :
    readRegister (s.awaitFor t) a = readRegister s a := (rfl)

@[simp] theorem readRegister_emit (e : OutEvent) (s : State) (a : Nat) :
    readRegister (s.emit e) a = readRegister s a := (rfl)

@[simp] theorem readRegister_atLoopTop (s : State) (a : Nat) :
    readRegister s.atLoopTop a = readRegister s a := (rfl)

@[simp] theorem readRegister_dropRx (s : State) (a : Nat) :
    readRegister s.dropRx a = readRegister s a := (rfl)

@[simp] theorem readRegister_keepWaiting (s : State) (a : Nat) :
    readRegister s.keepWaiting a = readRegister s a := (rfl)

@[simp] theorem readRegister_dropOpen (s : State) (a : Nat) :
    readRegister s.dropOpen a = readRegister s a := (rfl)

@[simp] theorem readRegister_dropOrder (s : State) (a : Nat) :
    readRegister s.dropOrder a = readRegister s a := (rfl)

@[simp] theorem readRegister_dropDraw (s : State) (a : Nat) :
    readRegister s.dropDraw a = readRegister s a := (rfl)

/-! ## What the choosing helpers can answer -/

/-- A link operation faults with NoSession, or goes on with a session open (43_transport.md R138). -/
theorem needSession_cases (k : State → State) (s : State) :
    (s.status.opened = true ∧ needSession k s = k s) ∨
      (s.status.opened = false ∧ needSession k s = s.raise .noSession) := by
  unfold needSession
  cases h : s.status.opened <;> simp

/-- A Transmit's outcome: the operation goes on, or faults with LinkError. -/
theorem afterTransmit_cases (o : TxOutcome) (k : State → State) (s : State) :
    (o = .sent ∧ afterTransmit o k s = k s) ∨
      (o = .linkError ∧ afterTransmit o k s = s.raise .linkError) := by
  cases o <;> simp [afterTransmit]

/-- What is delivered: the TOKEN's answer where the wait admits it, and else what the wait comes to without
one (43_transport.md R136, 70_reset_and_hazards.md R197). -/
theorem delivered_cases (t : Timeout) (s : State) :
    (∃ o, tokenAnswer s = .deliver o ∧ enabledAt t o = true ∧ delivered t s = some o) ∨
      ((∀ o, tokenAnswer s = .deliver o → enabledAt t o = false) ∧ delivered t s = expiry t) := by
  unfold delivered
  cases hs : tokenAnswer s with
  | silent => exact .inr ⟨by simp, rfl⟩
  | deliver o =>
    cases he : enabledAt t o with
    | true => exact .inl ⟨o, rfl, he, by simp [he]⟩
    | false => exact .inr ⟨by rintro _ ⟨⟩; exact he, by simp [he]⟩

/-- What a wait comes to without a delivery is an outcome it admits (43_transport.md R136). -/
theorem expiry_enabled {t : Timeout} {o : RxOutcome} (h : expiry t = some o) :
    t ≠ .inf ∧ o = .timeout ∧ enabledAt t o = true := by
  cases t <;> simp [expiry] at h <;> subst h <;> simp [enabledAt]

/-- A finite wait always receives an outcome (70_reset_and_hazards.md R197). -/
theorem delivered_finite {t : Timeout} (ht : t ≠ .inf) (s : State) : ∃ o, delivered t s = some o := by
  rcases delivered_cases t s with ⟨o, _, _, h⟩ | ⟨_, h⟩
  · exact ⟨o, h⟩
  · cases t <;> first | exact ⟨_, h⟩ | exact absurd rfl ht

/-- What is delivered is an outcome the wait admits (43_transport.md R136). -/
theorem delivered_enabled {t : Timeout} {s : State} {o : RxOutcome} (h : delivered t s = some o) :
    enabledAt t o = true := by
  rcases delivered_cases t s with ⟨o', _, he, h'⟩ | ⟨_, h'⟩
  · cases h.symm.trans h'; exact he
  · exact (expiry_enabled (h'.symm.trans h)).2.2

/-- A delivered response has 1 to 64 bytes (20_memory.md R76). -/
theorem delivered_data {t : Timeout} {s : State} {b : List Byte} (h : delivered t s = some (.data b)) :
    1 ≤ b.length ∧ b.length ≤ 64 := by
  have he := delivered_enabled h
  cases t <;> simpa [enabledAt] using he

/-- No timeout is delivered on an unbounded wait (43_transport.md R136). -/
theorem delivered_inf_ne_timeout {s : State} : delivered .inf s ≠ some .timeout := by
  intro h
  have he := delivered_enabled h
  simp [enabledAt] at he

/-- An exchange's first half: the frame sent and the await entered, or a fault (44_sequencer.md R147). -/
theorem exchange_cases (send : State → State) (s : State) :
    (txAnswer s = .sent ∧ exchange send s = (send s).awaitFor .cfg) ∨
      (txAnswer s = .linkError ∧ exchange send s = (send s).raise .linkError) :=
  afterTransmit_cases _ _ _

/-- An exchange's second half: one of the five ways it ends (44_sequencer.md R147). -/
theorem checkExchange_cases (o : RxOutcome) (e : ErrName) (k : State → State) (s : State) :
    (o = .timeout ∧ checkExchange o e k s = s.raise .ioTimeout) ∨
      (o = .linkError ∧ checkExchange o e k s = s.raise .linkError) ∨
      (∃ b, o = .data b ∧
        ((s.rxLen.toNat < 2 ∧ checkExchange o e k s = s.raise .protocolMismatch) ∨
          (2 ≤ s.rxLen.toNat ∧ s.rx 1 ≠ 0x01 ∧ checkExchange o e k s = s.raise e) ∨
          (2 ≤ s.rxLen.toNat ∧ s.rx 1 = 0x01 ∧ checkExchange o e k s = k s))) := by
  cases o with
  | timeout => exact .inl ⟨rfl, rfl⟩
  | linkError => exact .inr (.inl ⟨rfl, rfl⟩)
  | data b =>
    refine .inr (.inr ⟨b, rfl, ?_⟩)
    unfold checkExchange
    by_cases h1 : s.rxLen.toNat < 2
    · exact .inl ⟨h1, by rw [if_pos h1]⟩
    · by_cases h2 : s.rx 1 = 0x01
      · exact .inr (.inr ⟨by omega, h2, by simp [h1, h2]⟩)
      · exact .inr (.inl ⟨by omega, h2, by rw [if_neg h1, if_pos h2]⟩)

/-! ## The CRC, the digests and the texts -/

@[simp] theorem be32_length (w : Word32) : (be32 w).length = 4 := rfl

@[simp] theorem sha256_length (m : List Byte) : (sha256 m).length = 32 := by
  simp [sha256]

@[simp] theorem deriveMask_length (k : List Byte) : (deriveMask k).length = 36 := by
  simp [deriveMask, digest1, digest2]

@[simp] theorem digest1_length (k : List Byte) : (digest1 k).length = 32 := sha256_length _

@[simp] theorem digest2_length (k : List Byte) : (digest2 k).length = 32 := sha256_length _

@[simp] theorem hexText_length (bs : List Byte) : (hexText bs).length = 2 * bs.length := by
  induction bs with
  | nil => rfl
  | cons b bs ih => simp [hexText, ih]; omega

theorem crcFold_append (acc : Word16) (xs ys : List Byte) :
    crcFold acc (xs ++ ys) = crcFold (crcFold acc xs) ys := by
  induction xs generalizing acc with
  | nil => rfl
  | cons x xs ih => exact ih (crcStep acc x)

/-- The CRC's fold is the list's. -/
theorem crcFold_eq_foldl (acc : Word16) (bs : List Byte) : crcFold acc bs = bs.foldl crcStep acc := by
  induction bs generalizing acc with
  | nil => rfl
  | cons b bs ih => exact ih _

theorem patchedBlob_length (s : State) (h : s.serialLen.toNat ≤ 128) : (patchedBlob s).length = 128 := by
  simp [patchedBlob]; omega

theorem outputImage_length (s : State) : (outputImage s).length = 146 := by
  simp [outputImage, Config.maskLen]

end Sys2Proof.Machine
end

