-- ==== Sys2Proof/Laws/Encoding.lean ====
section
/-! SUPPORT. What the decoders answer on the bytes the encoder writes, and what an answer says of the bytes. -/

namespace Sys2Proof

theorem withNoPayload_ok {i j : Instr} {p : List Byte} (h : withNoPayload i p = .ok j) :
    p = [] ∧ j = i := by
  unfold withNoPayload at h
  split at h
  · cases h; exact ⟨‹_›, rfl⟩
  · cases h

theorem withPayload_ok {n : Nat} {mk : List Byte → Instr} {p : List Byte} {j : Instr}
    (h : withPayload n mk p = .ok j) : p.length = n ∧ j = mk p := by
  unfold withPayload at h
  split at h
  · cases h; exact ⟨‹_›, rfl⟩
  · cases h

theorem lockPayload_ok {p : List Byte} {j : Instr} (h : lockPayload p = .ok j) :
    ∃ hi lo, p = [hi, lo] ∧ j = .wireLock hi lo := by
  unfold lockPayload at h
  split at h
  · cases h; exact ⟨_, _, rfl, rfl⟩
  · cases h

theorem seedPayload_ok {p : List Byte} {j : Instr} (h : seedPayload p = .ok j) :
    (1 ≤ p.length ∧ p.length ≤ 20) ∧ j = .wireSeed p := by
  unfold seedPayload at h
  split at h
  · cases h; exact ⟨‹_›, rfl⟩
  · cases h

/-- The length bytes of the long form come off as they were put on. -/
theorem dropBcnt_bcntBytes (b : Bool) (p : List Byte) :
    dropBcnt b (bcntBytes b p.length ++ p) = .ok p := by
  cases b
  · rfl
  · simp [dropBcnt, bcntBytes]

theorem dropBcnt_ok {b : Bool} {rest p : List Byte} (h : dropBcnt b rest = .ok p) :
    bcntBytes b p.length ++ p = rest := by
  unfold dropBcnt at h
  split at h
  · cases h; rfl
  · split at h
    · next hh => cases h; rw [← hh]; rfl
    · cases h
  · cases h

/-- A long frame's command is read after the channel-broadcast bytes (30_encoding.md R87). -/
theorem decodeFrame_longBytes (p : Params) (c : Byte) (pl : List Byte) (h : pl.length ≤ 56) :
    decodeFrame p (longBytes p.longBcnt c pl) = decodeLong p.cmd c pl := by
  unfold decodeFrame
  rw [if_neg (by rw [Machine.longBytes_length]; split <;> omega)]
  show (match dropBcnt p.longBcnt (bcntBytes p.longBcnt pl.length ++ pl) with
    | .ok pl => decodeLong p.cmd c pl
    | .error e => .error e) = _
  rw [dropBcnt_bcntBytes]

/-- A short frame whose command is not 0xFF is no long frame (30_encoding.md R86). -/
theorem decodeFrame_shortBytes (p : Params) (c : Byte) (pl : List Byte) (h : pl.length ≤ 62)
    (hc : c ≠ 0xFF) : decodeFrame p (shortBytes c pl) = decodeShort p.cmd c pl := by
  unfold decodeFrame
  rw [if_neg (by rw [Machine.shortBytes_length]; omega)]
  unfold shortBytes
  split
  · next heq => cases heq; exact absurd rfl hc
  · next heq => cases heq; rfl
  · next h2 heq => cases heq; exact (h2 rfl).elim
  · next h1 => exact (h1 _ _ _ rfl).elim

/-- What a decoded short frame says of its bytes. -/
theorem decodeShort_ok {p : Params} {c : Byte} {pl : List Byte} {i : Instr}
    (h : decodeShort p.cmd c pl = .ok i) :
    i.isCommand = false ∧ i.wellFormed = true ∧ encode p i = shortBytes c pl := by
  unfold decodeShort at h
  split at h
  · obtain ⟨rfl, rfl⟩ := withNoPayload_ok h; subst c; exact ⟨rfl, rfl, rfl⟩
  split at h
  · obtain ⟨rfl, rfl⟩ := withNoPayload_ok h; subst c; exact ⟨rfl, rfl, rfl⟩
  split at h
  · obtain ⟨rfl, rfl⟩ := withNoPayload_ok h; subst c; exact ⟨rfl, rfl, rfl⟩
  split at h
  · obtain ⟨_, _, rfl, rfl⟩ := lockPayload_ok h; subst c; exact ⟨rfl, rfl, rfl⟩
  split at h
  · obtain ⟨rfl, rfl⟩ := withNoPayload_ok h; subst c; exact ⟨rfl, rfl, rfl⟩
  split at h
  · obtain ⟨hn, rfl⟩ := withPayload_ok h; subst c; exact ⟨rfl, by simp [Instr.wellFormed, hn], rfl⟩
  split at h
  · obtain ⟨hn, rfl⟩ := withPayload_ok h; subst c; exact ⟨rfl, by simp [Instr.wellFormed, hn], rfl⟩
  split at h
  · obtain ⟨hn, rfl⟩ := withPayload_ok h; subst c; exact ⟨rfl, by simp [Instr.wellFormed, hn], rfl⟩
  split at h
  · obtain ⟨rfl, rfl⟩ := withNoPayload_ok h; subst c; exact ⟨rfl, rfl, rfl⟩
  split at h
  · obtain ⟨rfl, rfl⟩ := withNoPayload_ok h; subst c; exact ⟨rfl, rfl, rfl⟩
  · cases h

/-- What a decoded long frame says of its bytes. -/
theorem decodeLong_ok {p : Params} {c : Byte} {pl : List Byte} {i : Instr}
    (h : decodeLong p.cmd c pl = .ok i) :
    i.isCommand = false ∧ i.wellFormed = true ∧ encode p i = longBytes p.longBcnt c pl := by
  unfold decodeLong at h
  split at h
  · obtain ⟨rfl, rfl⟩ := withNoPayload_ok h; subst c; exact ⟨rfl, rfl, rfl⟩
  split at h
  · obtain ⟨rfl, rfl⟩ := withNoPayload_ok h; subst c; exact ⟨rfl, rfl, rfl⟩
  split at h
  · obtain ⟨rfl, rfl⟩ := withNoPayload_ok h; subst c; exact ⟨rfl, rfl, rfl⟩
  split at h
  · obtain ⟨hn, rfl⟩ := seedPayload_ok h; subst c; exact ⟨rfl, by simp [Instr.wellFormed, hn], rfl⟩
  split at h
  · obtain ⟨rfl, rfl⟩ := withNoPayload_ok h; subst c; exact ⟨rfl, rfl, rfl⟩
  split at h
  · obtain ⟨rfl, rfl⟩ := withNoPayload_ok h; subst c; exact ⟨rfl, rfl, rfl⟩
  · cases h

/-- A value outside the map is RESERVED (30_encoding.md R81). -/
theorem decodeWord_reserved {op : Byte} (a b c : Byte) (h : op ∉ mappedOpcodes) :
    decodeWord op a b c = .reserved op := by
  unfold decodeWord
  split
  all_goals first
    | rfl
    | (rename_i he
       have h2 : op = BitVec.ofNat 8 op.toNat := by simp
       rw [he] at h2
       rw [h2] at h
       exact absurd (by decide) h)

/-- The distinctness facts in the direction a decoder's conditions ask for them. -/
theorem CmdIds.Unambiguous.facts {c : CmdIds} (h : c.Unambiguous) :
    c.shortIds.reverse.Nodup ∧ c.longIds.reverse.Nodup ∧ (0xFF : Byte) ∉ c.shortIds :=
  ⟨List.nodup_reverse.mpr h.1, List.nodup_reverse.mpr h.2.1, h.2.2⟩

end Sys2Proof
end

