-- ==== Sys2Proof/Laws/Parts.lean ====
section
/-! SUPPORT. One lemma for each part an operation is made of, that says once all it does: the end, the
fault, the Transmit, the Await with its Capture, the diagnostic. -/

namespace Sys2Proof.Machine

theorem zeroPadded_eq {bs : List Byte} (h : bs.length ≤ 64) : pad64 bs = zeroPadded bs := pad64_of_le h

@[simp] theorem zeroPadded_length {bs : List Byte} (h : bs.length ≤ 64) :
    (zeroPadded bs).length = 64 := by
  simp [zeroPadded]; omega

/-- Outside the ranges, the ranges being those a step writes. -/
theorem sameWindowBut_of {rs : List (Nat × Nat)} {s t : State} (hpar : t.params = s.params)
    (hreg : ∀ a, a < 0x040 → inRanges rs a = false → readRegister t a = readRegister s a)
    (hmem : ∀ a, 0x040 ≤ a → a < 0x380 → inRanges rs a = false →
      Memory.read t.mem a = Memory.read s.mem a) :
    SameWindowBut rs s t := by
  intro off ho
  unfold State.readByte
  split
  · next h => exact hreg _ h ho
  · next h =>
    rw [hpar]
    split
    · rfl
    · rw [hmem _ (by omega) (by omega) ho]

theorem SameWindowBut.refl (rs : List (Nat × Nat)) (s : State) : SameWindowBut rs s s :=
  fun _ _ => rfl

theorem SameWindowBut.trans {rs : List (Nat × Nat)} {s t u : State} (h : SameWindowBut rs s t)
    (h' : SameWindowBut rs t u) : SameWindowBut rs s u :=
  fun off ho => (h' off ho).trans (h off ho)

/-- More ranges say less. -/
theorem SameWindowBut.mono {rs rs' : List (Nat × Nat)} {s t : State} (h : SameWindowBut rs s t)
    (hsub : ∀ a, inRanges rs' a = false → inRanges rs a = false) : SameWindowBut rs' s t :=
  fun off ho => h off (hsub _ ho)

/-- Bytes outside the ranges a step writes are as before. -/
theorem SameWindowBut.windowBytes {rs : List (Nat × Nat)} {s t : State} (h : SameWindowBut rs s t)
    (base n : Nat) (hn : base + n ≤ 0x400)
    (hout : ∀ a, base ≤ a → a < base + n → inRanges rs a = false) :
    windowBytes t base n = windowBytes s base n := by
  unfold Machine.windowBytes
  apply List.map_congr_left
  intro i hi
  have hi := List.mem_range.mp hi
  exact h _ (by rw [BitVec.toNat_ofNat, Nat.mod_eq_of_lt (by omega)]; exact hout _ (by omega) (by omega))

theorem KeepsLogs.refl (s : State) : KeepsLogs s s := ⟨rfl, rfl, rfl, rfl⟩

theorem KeepsLatch.refl (s : State) : KeepsLatch s s := ⟨rfl, rfl, rfl, rfl, rfl, rfl, rfl, rfl, rfl⟩

/-- A buffer as the HOST sees it (10_state.md R15): it lies whole in the window's buffers. -/
def bufferFits (base n : Nat) : Prop :=
  0x040 ≤ base ∧ base + n ≤ 0x380 ∧ ∀ a, base ≤ a → a < base + n → accessOf a ≠ .reserved

theorem windowBytes_eq {base n : Nat} (h : bufferFits base n) (s : State) :
    windowBytes s base n = s.buf base n :=
  windowBytes_eq_buf s base n h.1 h.2.1 h.2.2

/-- The runs of the map between two reserved holes: 0x040 to 0x283, 0x2A0 to 0x2C3, 0x2E0 to 0x333 and
0x340 to 0x37F. -/
theorem bufferFits_of {base n : Nat}
    (h : (0x040 ≤ base ∧ base + n ≤ 0x284) ∨ (0x2A0 ≤ base ∧ base + n ≤ 0x2C4) ∨
      (0x2E0 ≤ base ∧ base + n ≤ 0x334) ∨ (0x340 ≤ base ∧ base + n ≤ 0x380)) : bufferFits base n := by
  refine ⟨by omega, by omega, fun a h1 h2 => ?_⟩
  have := accessOf_reserved_iff a (by omega)
  rw [ne_eq, this]
  omega

/-! ## The two forms of a frame -/

theorem shortFrame_eq (c : Byte) (p : List Byte) : shortBytes c p = shortFrame c p := rfl

/-- The length of a payload fits a byte, so the length bytes' high one is 0x00 (30_encoding.md R87). -/
theorem longFrame_eq (s : State) (c : Byte) {p : List Byte} (h : p.length < 256) :
    longBytes s.params.longBcnt c p = longFrame s c p := by
  unfold longBytes longFrame bcntBytes
  cases s.params.longBcnt
  · rfl
  · simp [Nat.div_eq_of_lt h]

theorem longFrame_length (s : State) (c : Byte) (p : List Byte) :
    (longFrame s c p).length = p.length + (if s.params.longBcnt then 8 else 6) := by
  unfold longFrame
  cases s.params.longBcnt <;> simp

/-! ## The end and the fault -/

theorem ended_finish (s : State) : Ended s s.finish where
  flags := ⟨rfl, rfl, rfl⟩
  window := sameWindowBut_of rfl
    (fun a _ ho => readRegister_finish s a (by rintro rfl; simp [inRanges] at ho)) (fun _ _ _ _ => rfl)
  internals := ⟨by constructor <;> rfl, by constructor <;> rfl, rfl, rfl⟩

theorem faulted_raise (e : ErrName) (s : State) : Faulted e s (s.raise e) where
  code := rfl
  errStep := rfl
  status := rfl
  phase := rfl
  att := rfl
  window := sameWindowBut_of rfl
    (fun a _ ho => readRegister_raise e s a (by simp [inRanges] at ho; omega)) (fun _ _ _ _ => rfl)
  internals := ⟨by constructor <;> rfl, by constructor <;> rfl, rfl, rfl⟩

/-! ## The link -/

/-- A Transmit of at most 64 meaningful bytes (43_transport.md R135). -/
theorem transmitted_transmit {bs : List Byte} (h : bs.length ≤ 64) (s : State) :
    Transmitted bs (txAnswer s) s (s.transmit bs) where
  frame := by
    rw [windowBytes_eq (bufferFits_of (by omega)), ← zeroPadded_eq h]
    have := Memory.readBytes_writeBytes s.mem txBase (pad64 bs)
    rwa [pad64_length] at this
  length := rfl
  linkLog := by rw [← zeroPadded_eq h]; rfl
  outLog := rfl
  answers := rfl
  taken := rfl
  window := sameWindowBut_of rfl
    (fun a _ ho => readRegister_transmit bs s a (by rintro rfl; simp [inRanges] at ho))
    (fun a h1 h2 ho => Memory.read_writeBytes_out _ _ (by
      have hb : txBase = 0x040 := rfl
      simp [inRanges] at ho; rw [pad64_length]; omega))
  control := ⟨by constructor <;> rfl, rfl, rfl, rfl, rfl⟩

theorem responseBytes_length {lim : Timeout} {o : RxOutcome} (h : enabledAt lim o = true) :
    (responseBytes o).length ≤ 64 := by
  cases o with
  | data b => cases lim <;> (simp [enabledAt] at h; exact h.2)
  | timeout => simp [responseBytes]
  | linkError => simp [responseBytes]

/-- The delivery of an outcome of at most 64 bytes, with its capture (43_transport.md R136, R137). -/
theorem captured_receive {o : RxOutcome} (h : (responseBytes o).length ≤ 64) (s : State) :
    Captured o s (s.receive o) where
  response := by
    rw [windowBytes_eq (bufferFits_of (by omega)), ← zeroPadded_eq h]
    have := Memory.readBytes_writeBytes s.mem rxBase (pad64 (responseBytes o))
    rwa [pad64_length] at this
  length := rfl
  result := rfl
  status := rfl
  linkLog := rfl
  outLog := rfl
  answers := rfl
  taken := rfl
  window := sameWindowBut_of rfl
    (fun a _ ho => readRegister_receive o s a (by simp [inRanges] at ho; omega))
    (fun a h1 h2 ho => Memory.read_writeBytes_out _ _ (by
      have hb : rxBase = 0x080 := rfl
      simp [inRanges] at ho; rw [pad64_length]; omega))
  control := ⟨by constructor <;> rfl, rfl, rfl, rfl, rfl⟩

theorem Delivers.delivered {lim : Timeout} {o : RxOutcome} {s : State} (h : Delivers lim o s) :
    delivered lim s = some o := by
  rcases h with ⟨ha, he⟩ | ⟨hn, hf, rfl⟩
  · simp [Machine.delivered, ha, he]
  · rcases delivered_cases lim s with ⟨o, ha, he, _⟩ | ⟨_, hd⟩
    · simp [hn o ha] at he
    · rw [hd]
      cases lim <;> first | rfl | exact absurd rfl hf

theorem Delivers.captured {lim : Timeout} {o : RxOutcome} {s : State} (h : Delivers lim o s) :
    Captured o s (s.receive o) := captured_receive (responseBytes_length (delivered_enabled h.delivered)) s

theorem delivers_of_delivered {lim : Timeout} {o : RxOutcome} {s : State}
    (h : delivered lim s = some o) : Delivers lim o s := by
  rcases delivered_cases lim s with ⟨o', ha, he, h'⟩ | ⟨hn, h'⟩
  · cases h.symm.trans h'; exact .inl ⟨ha, he⟩
  · obtain ⟨hf, rfl, _⟩ := expiry_enabled (h'.symm.trans h)
    exact .inr ⟨hn, hf, rfl⟩

/-- A silent TOKEN delivers nothing (43_transport.md R136). -/
theorem noDelivery_of_silent {s : State} (lim : Timeout) (h : tokenAnswer s = .silent) :
    NoDelivery lim s := by
  intro o ho
  cases h.symm.trans ho

/-- Without a delivery an unbounded wait receives nothing (43_transport.md R136). -/
theorem NoDelivery.delivered_inf {s : State} (h : NoDelivery .inf s) : delivered .inf s = none := by
  rcases delivered_cases .inf s with ⟨o, ha, he, _⟩ | ⟨_, hd⟩
  · simp [h o ha] at he
  · exact hd

/-- Byte `i` of RXBUF after a capture: the byte received, or 0x00 beyond it (10_state.md R40). -/
theorem rx_receive (o : RxOutcome) (s : State) {i : Nat} (h : (responseBytes o).length ≤ 64)
    (hi : i < 64) : (s.receive o).rx i = (responseBytes o).getD i 0 := by
  unfold State.rx
  rw [State.receive_mem, Memory.read_writeBytes, pad64_length, if_pos (by omega)]
  rw [show rxBase + i - rxBase = i by omega, pad64_of_le h]
  rw [List.getD_eq_getElem?_getD, List.getD_eq_getElem?_getD, List.getElem?_append]
  split
  · rfl
  · next hlt =>
    rw [List.getElem?_replicate, if_pos (by omega)]
    rw [List.getElem?_eq_none (by omega)]
    rfl

/-- RXLEN after a capture of at most 64 bytes (10_state.md R24). -/
theorem rxLen_receive (o : RxOutcome) (s : State) (h : (responseBytes o).length ≤ 64) :
    (s.receive o).rxLen.toNat = (responseBytes o).length := by
  rw [State.receive_rxLen, BitVec.toNat_ofNat, Nat.mod_eq_of_lt (by omega)]

/-! ## The diagnostic -/

theorem diagnosed_diag (e : ErrName) (s : State) : Diagnosed e s (s.diag e) where
  count := rfl
  last := rfl
  outLog := rfl
  linkLog := rfl
  answers := rfl
  taken := rfl
  window := sameWindowBut_of rfl
    (fun a _ ho => readRegister_diag e s a (by simp [inRanges] at ho; omega)) (fun _ _ _ _ => rfl)
  control := ⟨by constructor <;> rfl, rfl, rfl, rfl, rfl⟩

end Sys2Proof.Machine
end

