-- ==== Sys2Proof/Laws/PerInstr.lean ====
section
/-! SUPPORT. The round trip of the encodings, one lemma per constructor of Instr. -/

namespace Sys2Proof.Laws.RoundTrip

/-- Decoding an instruction's encoding gives it back: an operation as a command word, a wire frame under
identifiers that tell the frames apart. -/
def Statement (i : Instr) : Prop :=
  i.wellFormed = true → ∀ p : Params,
    if i.isCommand then decodeCommand (encode p i) = .ok i
    else p.cmd.Unambiguous → decodeFrame p (encode p i) = .ok i

theorem nop : Statement .nop := fun _ _ => rfl
theorem crcInit : Statement .crcInit := fun _ _ => rfl
theorem crcByte (b : Byte) : Statement (.crcByte b) := fun _ _ => rfl
theorem crcFinal : Statement .crcFinal := fun _ _ => rfl
theorem crcBlob : Statement .crcBlob := fun _ _ => rfl
theorem kdf (readKey : Bool) : Statement (.kdf readKey) := fun _ _ => by cases readKey <;> rfl
theorem patch : Statement .patch := fun _ _ => rfl
theorem openDev : Statement .openDev := fun _ _ => rfl
theorem closeDev : Statement .closeDev := fun _ _ => rfl
theorem send (form cmd len : Byte) : Statement (.send form cmd len) := fun _ _ => rfl
theorem recv (sel : Byte) : Statement (.recv sel) := fun _ _ => rfl
theorem recvRetry (n : Byte) : Statement (.recvRetry n) := fun _ _ => rfl
theorem configure : Statement .configure := fun _ _ => rfl
theorem rngStream : Statement .rngStream := fun _ _ => rfl
theorem seedStream : Statement .seedStream := fun _ _ => rfl
theorem wipe : Statement .wipe := fun _ _ => rfl
theorem wink : Statement .wink := fun _ _ => rfl
theorem boot : Statement .boot := fun _ _ => rfl
theorem bootDestroy : Statement .bootDestroy := fun _ _ => rfl

theorem reserved (op : Byte) : Statement (.reserved op) := fun h _ => by
  simp only [Instr.wellFormed, Bool.not_eq_true', List.contains_eq_mem, decide_eq_false_iff_not] at h
  exact congrArg Except.ok (decodeWord_reserved 0 0 0 h)

/-- A short frame whose command the decoder reads as the instruction. -/
theorem of_short {i : Instr} {p : Params} {c : Byte} {pl : List Byte} (henc : encode p i = shortBytes c pl)
    (hlen : pl.length ≤ 62) (hc : c ≠ 0xFF) (h : decodeShort p.cmd c pl = .ok i) :
    decodeFrame p (encode p i) = .ok i := by
  rw [henc, decodeFrame_shortBytes p c pl hlen hc, h]

/-- A long frame whose command the decoder reads as the instruction. -/
theorem of_long {i : Instr} {p : Params} {c : Byte} {pl : List Byte}
    (henc : encode p i = longBytes p.longBcnt c pl) (hlen : pl.length ≤ 56)
    (h : decodeLong p.cmd c pl = .ok i) : decodeFrame p (encode p i) = .ok i := by
  rw [henc, decodeFrame_longBytes p c pl hlen, h]

theorem wireIsBuild : Statement .wireIsBuild := fun _ p hu => by
  have ⟨_, _, hf⟩ := hu.facts
  refine of_short rfl (by simp) (fun h => hf (by simp [CmdIds.shortIds, h])) ?_
  simp [decodeShort, withNoPayload]

theorem wireGetSerial : Statement .wireGetSerial := fun _ p hu => by
  have ⟨hs, _, hf⟩ := hu.facts
  refine of_short rfl (by simp) (fun h => hf (by simp [CmdIds.shortIds, h])) ?_
  simp [CmdIds.shortIds] at hs
  simp [decodeShort, withNoPayload, hs]

theorem wireIsConfigured : Statement .wireIsConfigured := fun _ p hu => by
  have ⟨hs, _, hf⟩ := hu.facts
  refine of_short rfl (by simp) (fun h => hf (by simp [CmdIds.shortIds, h])) ?_
  simp [CmdIds.shortIds] at hs
  simp [decodeShort, withNoPayload, hs]

theorem wireLock (hi lo : Byte) : Statement (.wireLock hi lo) := fun _ p hu => by
  have ⟨hs, _, hf⟩ := hu.facts
  refine of_short rfl (by simp) (fun h => hf (by simp [CmdIds.shortIds, h])) ?_
  simp [CmdIds.shortIds] at hs
  simp [decodeShort, lockPayload, hs]

theorem wireGenKey : Statement .wireGenKey := fun _ p hu => by
  have ⟨hs, _, hf⟩ := hu.facts
  refine of_short rfl (by simp) (fun h => hf (by simp [CmdIds.shortIds, h])) ?_
  simp [CmdIds.shortIds] at hs
  simp [decodeShort, withNoPayload, hs]

theorem wireLoadTransKey (key : List Byte) : Statement (.wireLoadTransKey key) := fun hw p hu => by
  have ⟨hs, _, hf⟩ := hu.facts
  have hn : key.length = 32 := by simpa [Instr.wellFormed] using hw
  refine of_short rfl (by omega) (fun h => hf (by simp [CmdIds.shortIds, h])) ?_
  simp [CmdIds.shortIds] at hs
  simp [decodeShort, withPayload, hs, hn]

theorem wireLoadWriteKey (mask : List Byte) : Statement (.wireLoadWriteKey mask) := fun hw p hu => by
  have ⟨hs, _, hf⟩ := hu.facts
  have hn : mask.length = 36 := by simpa [Instr.wellFormed] using hw
  refine of_short rfl (by omega) (fun h => hf (by simp [CmdIds.shortIds, h])) ?_
  simp [CmdIds.shortIds] at hs
  simp [decodeShort, withPayload, hs, hn]

theorem wireLoadAttestKey (key : List Byte) : Statement (.wireLoadAttestKey key) := fun hw p hu => by
  have ⟨hs, _, hf⟩ := hu.facts
  have hn : key.length = 32 := by simpa [Instr.wellFormed] using hw
  refine of_short rfl (by omega) (fun h => hf (by simp [CmdIds.shortIds, h])) ?_
  simp [CmdIds.shortIds] at hs
  simp [decodeShort, withPayload, hs, hn]

theorem wireBootloaderShort : Statement .wireBootloaderShort := fun _ p hu => by
  have ⟨hs, _, hf⟩ := hu.facts
  refine of_short rfl (by simp) (fun h => hf (by simp [CmdIds.shortIds, h])) ?_
  simp [CmdIds.shortIds] at hs
  simp [decodeShort, withNoPayload, hs]

theorem wireBootloaderLong : Statement .wireBootloaderLong := fun _ p _ =>
  of_long rfl (by simp) (by simp [decodeLong, withNoPayload])

theorem wireBootloaderDestroyShort : Statement .wireBootloaderDestroyShort := fun _ p hu => by
  have ⟨hs, _, hf⟩ := hu.facts
  refine of_short rfl (by simp) (fun h => hf (by simp [CmdIds.shortIds, h])) ?_
  simp [CmdIds.shortIds] at hs
  simp [decodeShort, withNoPayload, hs]

theorem wireBootloaderDestroyLong : Statement .wireBootloaderDestroyLong := fun _ p hu => by
  have ⟨_, hl, _⟩ := hu.facts
  refine of_long rfl (by simp) ?_
  simp [CmdIds.longIds] at hl
  simp [decodeLong, withNoPayload, hl]

theorem wireRng : Statement .wireRng := fun _ p hu => by
  have ⟨_, hl, _⟩ := hu.facts
  refine of_long rfl (by simp) ?_
  simp [CmdIds.longIds] at hl
  simp [decodeLong, withNoPayload, hl]

theorem wireSeed (chunk : List Byte) : Statement (.wireSeed chunk) := fun hw p hu => by
  have ⟨_, hl, _⟩ := hu.facts
  have hn : 1 ≤ chunk.length ∧ chunk.length ≤ 20 := by simpa [Instr.wellFormed] using hw
  refine of_long rfl (by omega) ?_
  simp [CmdIds.longIds] at hl
  simp [decodeLong, seedPayload, hl, hn]

theorem wireWipe : Statement .wireWipe := fun _ p hu => by
  have ⟨_, hl, _⟩ := hu.facts
  refine of_long rfl (by simp) ?_
  simp [CmdIds.longIds] at hl
  simp [decodeLong, withNoPayload, hl]

theorem wireWink : Statement .wireWink := fun _ p hu => by
  have ⟨_, hl, _⟩ := hu.facts
  refine of_long rfl (by simp) ?_
  simp [CmdIds.longIds] at hl
  simp [decodeLong, withNoPayload, hl]

end Sys2Proof.Laws.RoundTrip
end

