-- ==== Sys2Proof/Laws/Turns.lean ====
section
/-! SUPPORT. What a CORE step can do, said once: every meaning but OPEN's and CLOSE's is a chain of the
shared operations listed in `Act`, with the bounds its pseudocode puts on their arguments, and then one
of the endings listed in `Ends`. A property that each of them keeps is kept by every step. -/

namespace Sys2Proof.Machine

/-- The buffers an operation writes with `setBuf`: CFG to RKEY, the masks and the digests (10_state.md R42 to
R47). -/
def coreBuffer (base n : Nat) : Prop :=
  (0x100 ≤ base ∧ base + n ≤ 0x240) ∨ (0x260 ≤ base ∧ base + n ≤ 0x284) ∨
    (0x2A0 ≤ base ∧ base + n ≤ 0x2C4) ∨ (0x2E0 ≤ base ∧ base + n ≤ 0x320)

/-- One shared operation applied to a state, of those that keep PH and STATUS but TMO and OUTV. -/
inductive Act (s : State) : State → Prop
  | transmit (bs : List Byte) (h : s.chunkN.toNat ≤ 20 → bs.length ≤ 64) : Act s (s.transmit bs)
  | receive (lim : Timeout) (o : RxOutcome) (h : delivered lim s = some o) : Act s (s.receive o)
  | keepWaiting : Act s s.keepWaiting
  | setTries (n : Byte) : Act s (s.setTries n)
  | setAttempt (n : Byte) : Act s (s.setAttempt n)
  | countWipe : Act s s.countWipe
  | clearCancel : Act s s.clearCancel
  | emit (e : OutEvent) (h : outEventSized e) : Act s (s.emit e)
  | diag (e : ErrName) (h : e = .protocolMismatch ∨ e = .linkError) : Act s (s.diag e)
  | setOutv : Act s s.setOutv
  | setBuf (base : Nat) (bs : List Byte) (h : coreBuffer base bs.length) : Act s (s.setBuf base bs)
  | setCrcAcc (x : Word16) : Act s (s.setCrcAcc x)
  | setCrcOut (x : Word16) : Act s (s.setCrcOut x)
  | enterStep (k : Byte) (h : k.toNat ≤ 11) : Act s (s.enterStep k)
  | beginConfigure : Act s s.beginConfigure
  | dropDraw : Act s s.dropDraw
  | setSerialLen (n : Byte) : Act s (s.setSerialLen n)
  | setWkeyLen (n : Byte) : Act s (s.setWkeyLen n)
  | setRkeyLen (n : Byte) : Act s (s.setRkeyLen n)
  | zeroRngCounts : Act s s.zeroRngCounts
  | countRng : Act s s.countRng
  | zeroSeedCounts : Act s s.zeroSeedCounts
  | countSeed : Act s s.countSeed
  | dropOrder : Act s s.dropOrder
  | dropOpen : Act s s.dropOpen
  | setResult (r : Byte) (h : r = 0 ∨ r = 1) : Act s (s.setResult r)

/-- The waits an operation enters, `k` being SEQ_STEP (43_transport.md R142, R143, 44_sequencer.md R147, R149,
45_supplementary.md R163, R164, R166). -/
def waitsIn (i : Instr) (lim : Timeout) (k : Byte) : Prop :=
  (∃ a, i = .recv a ∧ (lim = .cfg ∨ lim = .wipe)) ∨ (∃ n, i = .recvRetry n ∧ lim = .cfg) ∨
    (i = .configure ∧ lim = .cfg ∧ k ∈ awaitingSteps) ∨ (i = .rngStream ∧ lim = .inf) ∨
    (i = .seedStream ∧ lim = .inf) ∨ (i = .wipe ∧ lim = .wipe)

/-- The five ways a CORE step of operation `i` ends. -/
inductive Ends (i : Instr) (s : State) : State → Prop
  | finish : Ends i s s.finish
  | raise (e : ErrName) : Ends i s (s.raise e)
  | awaitFor (lim : Timeout) (h : waitsIn i lim s.seqStep) : Ends i s (s.awaitFor lim)
  | loopTop (h : i = .rngStream ∨ i = .seedStream) : Ends i s s.atLoopTop
  | waitForInput (h : i = .seedStream) : Ends i s s.waitForInput

/-- A chain of shared operations. -/
inductive Made (s : State) : State → Prop
  | refl : Made s s
  | tail {t u : State} (h : Made s t) (a : Act t u) : Made s u

theorem Made.trans {s t u : State} (h : Made s t) (h' : Made t u) : Made s u := by
  induction h' with
  | refl => exact h
  | tail _ a ih => exact .tail ih a

theorem Act.made {s t : State} (a : Act s t) : Made s t := .tail .refl a

/-- A property each shared operation keeps is kept by a chain of them. -/
theorem Made.keeps {P : State → State → Prop} (hr : ∀ s, P s s)
    (ht : ∀ s t u, P s t → P t u → P s u) (ha : ∀ s t, Act s t → P s t) {s t : State} (h : Made s t) :
    P s t := by
  induction h with
  | refl => exact hr s
  | tail _ a ih => exact ht _ _ _ ih (ha _ _ a)

/-- A CORE step of operation `i`: a chain of shared operations, and an ending. -/
def Turn (i : Instr) (s t : State) : Prop := ∃ u, Made s u ∧ Ends i u t

theorem Made.turn {i : Instr} {s u t : State} (h : Made s u) (h' : Turn i u t) : Turn i s t :=
  let ⟨v, hm, he⟩ := h'
  ⟨v, h.trans hm, he⟩

theorem Act.turn {i : Instr} {s u t : State} (a : Act s u) (h' : Turn i u t) : Turn i s t :=
  a.made.turn h'

theorem Ends.turn {i : Instr} {s t : State} (h : Ends i s t) : Turn i s t := ⟨s, .refl, h⟩

theorem turn_finish (i : Instr) (s : State) : Turn i s s.finish := Ends.finish.turn

theorem turn_raise (i : Instr) (e : ErrName) (s : State) : Turn i s (s.raise e) := (Ends.raise e).turn

/-! ## The helpers that choose -/

theorem turn_needSession {i : Instr} {k : State → State} {s : State} (h : Turn i s (k s)) :
    Turn i s (needSession k s) := by
  rcases needSession_cases k s with ⟨_, e⟩ | ⟨_, e⟩ <;> rw [e]
  · exact h
  · exact turn_raise _ _ _

theorem turn_afterTransmit {i : Instr} {o : TxOutcome} {k : State → State} {s : State}
    (h : Turn i s (k s)) : Turn i s (afterTransmit o k s) := by
  rcases afterTransmit_cases o k s with ⟨_, e⟩ | ⟨_, e⟩ <;> rw [e]
  · exact h
  · exact turn_raise _ _ _

theorem turn_attempt {i : Instr} (a : Byte) {s : State} (h : waitsIn i .cfg s.seqStep) :
    Turn i s (s.attempt a) :=
  (Act.setAttempt a).turn (Ends.awaitFor (s := s.setAttempt a) .cfg h).turn

theorem made_transmitShort (c : Byte) {p : List Byte} (h : p.length ≤ 62) (s : State) :
    Made s (s.transmitShort c p) :=
  (Act.transmit _ (by intro _; simp; omega)).made

theorem made_transmitLong (c : Byte) {p : List Byte} (s : State)
    (h : s.chunkN.toNat ≤ 20 → p.length ≤ longMax s.params.longBcnt) :
    Made s (s.transmitLong c p) :=
  (Act.transmit _ (by
    intro hc
    have := h hc
    simp only [longMax] at this
    simp only [longBytes_length]
    split <;> simp_all)).made

/-- An exchange of CONFIGURE in a step that waits for a response. -/
theorem turn_exchange {send : State → State} {s : State} (h : Made s (send s))
    (hk : (send s).seqStep ∈ awaitingSteps) : Turn .configure s (exchange send s) := by
  rcases exchange_cases send s with ⟨_, e⟩ | ⟨_, e⟩ <;> rw [e]
  · exact h.turn (Ends.awaitFor _ (.inr (.inr (.inl ⟨rfl, rfl, hk⟩)))).turn
  · exact h.turn (turn_raise _ _ _)

theorem turn_checkExchange {i : Instr} {o : RxOutcome} {e : ErrName} {k : State → State} {s : State}
    (h : Turn i s (k s)) : Turn i s (checkExchange o e k s) := by
  rcases checkExchange_cases o e k s with
    ⟨_, q⟩ | ⟨_, q⟩ | ⟨_, _, ⟨_, q⟩ | ⟨_, _, q⟩ | ⟨_, _, q⟩⟩ <;> rw [q]
  · exact turn_raise _ _ _
  · exact turn_raise _ _ _
  · exact turn_raise _ _ _
  · exact turn_raise _ _ _
  · exact h

/-! ## The steps of CONFIGURE -/

theorem made_setDigests (k : List Byte) (s : State) : Made s (s.setDigests k) :=
  .tail (Act.setBuf _ _ (by simp [coreBuffer, digest1Base])).made
    (.setBuf _ _ (by simp [coreBuffer, digest2Base]))

theorem made_crcBlob (s : State) : Made s s.crcBlob :=
  .tail (Act.setCrcAcc _).made (.setCrcOut _)

theorem made_enterStep (k : Byte) (h : k.toNat ≤ 11) (s : State) : Made s (s.enterStep k) :=
  (Act.enterStep k h).made

/-- A step of CONFIGURE that is one exchange of a short frame. -/
theorem turn_shortExchange (k c : Byte) {p : List Byte} (hp : p.length ≤ 62) (hk : k.toNat ≤ 11)
    (ha : k ∈ awaitingSteps) {s u : State} {send : State → State} (hm : Made (s.enterStep k) u)
    (hu : u.seqStep = k) (hs : send u = u.transmitShort c p) :
    Turn .configure s (exchange send u) := by
  refine ((made_enterStep k hk s).trans hm).turn (turn_exchange ?_ ?_)
  · rw [hs]
    exact made_transmitShort c hp u
  · rw [hs]
    show u.seqStep ∈ awaitingSteps
    rw [hu]
    exact ha

theorem turn_cfgStep11 (s : State) : Turn .configure s (cfgStep11 s) :=
  turn_shortExchange 11 _ (p := []) (by simp) (by decide) (by decide) .refl rfl rfl

theorem turn_cfgStep10 (s : State) : Turn .configure s (cfgStep10 s) :=
  (((made_enterStep 10 (by decide) s).tail
    (.emit (.persist (outputImage (s.enterStep 10))) (outputImage_length _))).tail .setOutv).turn
    (turn_cfgStep11 _)

theorem turn_cfgStep9 (s : State) : Turn .configure s (cfgStep9 s) := by
  unfold cfgStep9
  split
  · exact (made_enterStep 9 (by decide) s).turn (turn_raise _ _ _)
  · exact turn_shortExchange 9 _ (p := s.buf attkeyBase Config.keyLen) (by simp [Config.keyLen])
      (by decide) (by decide) .refl rfl rfl

theorem turn_cfgStep8 (s : State) : Turn .configure s (cfgStep8 s) :=
  turn_shortExchange 8 _ (p := s.buf wmaskBase Config.maskLen) (by simp [Config.maskLen])
    (by decide) (by decide) .refl rfl rfl

theorem made_deriveMasks (s : State) : Made s s.deriveMasks :=
  Made.trans (.tail (Act.setBuf _ _ (by simp [coreBuffer])).made (.setBuf _ _ (by simp [coreBuffer])))
    (made_setDigests _ _)

theorem turn_cfgStep7 (s : State) : Turn .configure s (cfgStep7 s) :=
  ((made_enterStep 7 (by decide) s).trans (made_deriveMasks _)).turn (turn_cfgStep8 _)

theorem turn_cfgStep6 (s : State) : Turn .configure s (cfgStep6 s) :=
  turn_shortExchange 6 _ (p := s.buf wkeyBase Config.keyLen) (by simp [Config.keyLen])
    (by decide) (by decide) .refl rfl rfl

theorem made_drawWriteKey (s : State) : Made s s.drawWriteKey :=
  .tail (.tail Act.dropDraw.made (.setBuf _ _ (by simp [coreBuffer, wkeyBase]))) (.setWkeyLen 32)

theorem made_drawReadKey (s : State) : Made s s.drawReadKey :=
  .tail (.tail Act.dropDraw.made (.setBuf _ _ (by simp [coreBuffer, rkeyBase]))) (.setRkeyLen 32)

theorem turn_cfgReadKey (s : State) : Turn .configure s (cfgReadKey s) := by
  unfold cfgReadKey
  split
  · split
    · exact turn_raise _ _ _
    · exact turn_cfgStep6 s
  · exact (made_drawReadKey s).turn (turn_cfgStep6 _)

theorem turn_cfgStep5 (s : State) : Turn .configure s (cfgStep5 s) := by
  have h := made_enterStep 5 (by decide) s
  unfold cfgStep5
  split
  · split
    · exact h.turn (turn_raise _ _ _)
    · exact h.turn (turn_cfgReadKey _)
  · exact (h.trans (made_drawWriteKey _)).turn (turn_cfgReadKey _)

theorem turn_cfgStep4 (s : State) : Turn .configure s (cfgStep4 s) :=
  turn_shortExchange 4 _
    (p := [hiByte (s.enterStep 4).crcBlob.crcOut, loByte (s.enterStep 4).crcBlob.crcOut]) (by simp)
    (by decide) (by decide) (made_crcBlob _) rfl rfl

theorem turn_cfgStep3 (s : State) (h : s.serialLen.toNat ≤ 128) : Turn .configure s (cfgStep3 s) :=
  (Made.tail (made_enterStep 3 (by decide) s) (.setBuf cfgBase _ (by
    rw [patchedBlob_length _ h]; simp [coreBuffer, cfgBase]))).turn (turn_cfgStep4 _)

/-- The serial is stored whole inside SERIAL, since a response has at most 64 bytes (44_sequencer.md R149). -/
theorem turn_serialAccepted (s : State) (h : s.rxLen.toNat ≤ 64) :
    Turn .configure s (serialAccepted s) := by
  unfold serialAccepted
  split
  · exact turn_raise _ _ _
  · split
    · exact turn_raise _ _ _
    · refine Made.turn (.tail (Act.setBuf _ _ ?_).made (.setSerialLen _)) (turn_cfgStep3 _ ?_)
      · simp [coreBuffer, serialBase]
        omega
      · show (s.rx 1).toNat ≤ 128
        omega

theorem turn_serialAttempts (n : Nat) (a : Byte) (last : ErrName) (s : State) (h : s.seqStep = 2) :
    Turn .configure s (serialAttempts n a last s) := by
  have hw : ∀ k : Byte, k = 2 → waitsIn .configure .cfg k := by
    rintro _ rfl
    exact .inr (.inr (.inl ⟨rfl, rfl, by decide⟩))
  induction n generalizing a last s with
  | zero => exact turn_raise _ _ _
  | succ n ih =>
    have hs : Made s (sendGetSerial (s.setAttempt a)) :=
      (Act.setAttempt a).made.trans (made_transmitShort _ (by simp) _)
    unfold serialAttempts
    split
    · split
      · exact hs.turn (Ends.awaitFor (s := sendGetSerial (s.setAttempt a)) .cfg (hw _ h)).turn
      · exact hs.turn (ih _ _ _ h)
    · exact turn_attempt a (hw _ h)

theorem turn_serialGoOn (o : RxOutcome) (s : State) (h : s.rxLen.toNat ≤ 64) (hk : s.seqStep = 2) :
    Turn .configure s (serialGoOn o s) := by
  unfold serialGoOn
  split
  · split
    · exact turn_serialAccepted s h
    · exact turn_serialAttempts _ _ _ _ hk
  · exact turn_serialAttempts _ _ _ _ hk
  · exact turn_serialAttempts _ _ _ _ hk

theorem turn_cfgStep2 (s : State) : Turn .configure s (cfgStep2 s) :=
  ((made_enterStep 2 (by decide) s).trans (made_transmitShort _ (by simp) _)).turn
    (turn_afterTransmit (turn_serialAttempts _ _ _ _ rfl))

theorem turn_cfgStep1 (s : State) : Turn .configure s (cfgStep1 s) :=
  turn_shortExchange 1 _ (p := []) (by simp) (by decide) (by decide) .refl rfl rfl

theorem turn_configureCaptured {o : RxOutcome} {s t : State} (h : s.rxLen.toNat ≤ 64)
    (hc : configureCaptured o s = some t) : Turn .configure s t := by
  unfold configureCaptured at hc
  split at hc <;> cases hc
  · exact turn_checkExchange (turn_cfgStep2 s)
  · next hk => exact turn_serialGoOn o s h (BitVec.eq_of_toNat_eq hk)
  · exact turn_checkExchange (turn_cfgStep5 s)
  · exact turn_checkExchange (turn_cfgStep7 s)
  · exact turn_checkExchange (turn_cfgStep9 s)
  · exact turn_checkExchange (turn_cfgStep10 s)
  · exact turn_checkExchange (turn_finish _ _)

/-! ## The operations -/

theorem made_receive {lim : Timeout} {o : RxOutcome} {s : State} (h : delivered lim s = some o) :
    Made s (s.receive o) := (Act.receive lim o h).made

/-- RXLEN after a delivery (20_memory.md R76). -/
theorem rxLen_receive_le {lim : Timeout} {o : RxOutcome} {s : State} (h : delivered lim s = some o) :
    (s.receive o).rxLen.toNat ≤ 64 := by
  have hl := responseBytes_length (delivered_enabled h)
  rw [rxLen_receive o s hl]
  exact hl

theorem turn_sendOpen (form c n : Byte) (s : State) :
    Turn (.send form c n) s (sendOpen form c n s) := by
  unfold sendOpen
  split
  · exact turn_raise _ _ _
  · next h1 =>
    split
    · exact turn_raise _ _ _
    · next h2 =>
      split
      · exact turn_raise _ _ _
      · next h3 =>
        refine Made.turn ?_ (turn_afterTransmit (turn_finish _ _))
        unfold sendFrame
        split
        · next h =>
          exact made_transmitShort c (by simp [h, shortMax] at h2 ⊢; exact h2) s
        · next h =>
          have hf : form = 1 := by
            apply BitVec.eq_of_toNat_eq
            have : form.toNat ≠ 0 := fun e => h (BitVec.eq_of_toNat_eq e)
            simp; omega
          exact made_transmitLong c s (by intro _; simp [hf] at h3 ⊢; exact h3)

theorem turn_recvStart (a : Byte) (s : State) : Turn (.recv a) s (recvStart a s) := by
  unfold recvStart
  refine turn_needSession ?_
  split
  · exact turn_raise _ _ _
  · next lim hl =>
    refine (Act.setTries 1).turn (Ends.awaitFor _ (.inl ⟨a, rfl, ?_⟩)).turn
    unfold recvTimeout at hl
    split at hl
    · cases hl; exact .inl rfl
    · split at hl <;> cases hl
      exact .inr rfl

theorem turn_recvGoOn {a : Byte} {lim : Timeout} {s : State} :
    recvGoOn lim s = s.keepWaiting ∨ Turn (.recv a) s (recvGoOn lim s) := by
  unfold recvGoOn
  split
  · exact .inl rfl
  · next h => exact .inr ((made_receive h).turn (turn_finish _ _))

theorem turn_recvRetryGoOn {n : Byte} {lim : Timeout} {s : State} :
    recvRetryGoOn n lim s = s.keepWaiting ∨ Turn (.recvRetry n) s (recvRetryGoOn n lim s) := by
  unfold recvRetryGoOn
  split
  · exact .inl rfl
  · next h => exact .inr ((made_receive h).turn (turn_finish _ _))
  · next h =>
    refine .inr ((made_receive h).turn ?_)
    unfold recvRetryFailed
    split
    · exact turn_attempt _ (.inr (.inl ⟨n, rfl, rfl⟩))
    · exact turn_finish _ _

theorem turn_rngLoopTop (s : State) : Turn .rngStream s (rngLoopTop s) := by
  have hs : Made s (sendRng s) := made_transmitLong _ s (by simp)
  unfold rngLoopTop rngCancel
  split
  · exact Act.clearCancel.turn (turn_finish _ _)
  · split
    · exact hs.turn (Ends.awaitFor _ (by simp [waitsIn])).turn
    · exact (hs.tail (.diag _ (.inr rfl))).turn (Ends.loopTop (.inl rfl)).turn

theorem turn_rngGoOn {lim : Timeout} {s : State} :
    rngGoOn lim s = s.keepWaiting ∨ Turn .rngStream s (rngGoOn lim s) := by
  unfold rngGoOn
  split
  · next h =>
    refine .inr ((made_receive h).turn ?_)
    unfold rngCaptured
    split
    · exact (Act.diag _ (.inr rfl)).turn (Ends.loopTop (.inl rfl)).turn
    · split
      · refine Made.turn (.tail Act.countRng.made (.emit _ ?_)) (Ends.loopTop (.inl rfl)).turn
        simp [outEventSized, rngBytes]
      · exact (Act.diag _ (.inl rfl)).turn (Ends.loopTop (.inl rfl)).turn
  · split
    · exact .inr (Act.keepWaiting.turn (Act.clearCancel.turn (turn_finish _ _)))
    · exact .inl rfl

theorem turn_seedEnd (s : State) : Turn .seedStream s (seedEnd s) :=
  (Act.emit (.seedSummary s.seedCount) trivial).turn (turn_finish _ _)

theorem turn_seedCancel (s : State) : Turn .seedStream s (seedCancel s) :=
  Act.clearCancel.turn (turn_seedEnd _)

theorem turn_seedTake (s : State) : Turn .seedStream s (seedTake s) := by
  have hs : Made s (sendSeed (s.chunk.take s.chunkN.toNat) s) := made_transmitLong _ s (by
    intro h
    simp [longMax, List.length_take]
    split <;> omega)
  unfold seedTake
  split
  · exact turn_seedEnd s
  · split
    · exact hs.turn (Ends.awaitFor _ (by simp [waitsIn])).turn
    · exact (hs.tail (.diag _ (.inr rfl))).turn (Ends.loopTop (.inr rfl)).turn

theorem turn_seedInput {s : State} :
    seedInput s = s ∨ Turn .seedStream s (seedInput s) := by
  unfold seedInput
  split
  · exact .inr (turn_seedTake s)
  · split
    · exact .inr (Act.dropOrder.turn (turn_seedCancel _))
    · exact .inr (Act.dropOrder.turn (turn_seedTake _))
  · exact .inr (turn_seedCancel s)
  · exact .inl rfl

theorem turn_seedGoOn {lim : Timeout} {s : State} :
    seedGoOn lim s = s.keepWaiting ∨ Turn .seedStream s (seedGoOn lim s) := by
  unfold seedGoOn
  split
  · next h =>
    refine .inr ((made_receive h).turn ?_)
    unfold seedCaptured
    split
    · exact (Act.diag _ (.inr rfl)).turn (Ends.loopTop (.inr rfl)).turn
    · split
      · exact Act.countSeed.turn (Ends.loopTop (.inr rfl)).turn
      · exact (Act.diag _ (.inl rfl)).turn (Ends.loopTop (.inr rfl)).turn
  · split
    · exact .inr (Act.keepWaiting.turn (turn_seedCancel _))
    · exact .inl rfl

theorem turn_wipeLoop (s : State) : Turn .wipe s (wipeLoop s) :=
  Act.countWipe.turn (Ends.awaitFor _ (by simp [waitsIn])).turn

theorem turn_wipeStart (s : State) : Turn .wipe s (wipeStart s) := by
  refine turn_needSession (Made.turn (made_transmitLong _ s (by simp)) (turn_afterTransmit ?_))
  exact (Act.setTries 0).turn (turn_wipeLoop _)

theorem turn_wipeGoOn {lim : Timeout} {s : State} :
    wipeGoOn lim s = s.keepWaiting ∨ Turn .wipe s (wipeGoOn lim s) := by
  unfold wipeGoOn
  split
  · exact .inl rfl
  · next h =>
    refine .inr ((made_receive h).turn ?_)
    unfold wipeCaptured
    split
    · exact turn_wipeLoop _
    · exact turn_raise _ _ _
    · refine (Act.setResult _ ?_).turn (turn_finish _ _)
      unfold wipeResult
      split <;> simp

theorem turn_sendBoth {i : Instr} {first second : State → State} {s : State} (h1 : Made s (first s))
    (h2 : Made (first s) (second (first s))) : Turn i s (sendBoth first second s) :=
  h1.turn (turn_afterTransmit (h2.turn (turn_afterTransmit (turn_finish _ _))))

/-- Every operation but OPEN and CLOSE takes a CORE step that is a chain of shared operations and an ending,
or stays where it is: it waits on, and at most an answer of the TOKEN is taken. -/
theorem turn_exec {i : Instr} {s t : State} (hi : i.isCommand = true) (ho : i ≠ .openDev)
    (hc : i ≠ .closeDev) (h : exec i s = .next t) : Turn i s t ∨ t = s.keepWaiting ∨ t = s := by
  have hor : ∀ {p : Prop}, t = s.keepWaiting ∨ p → p ∨ t = s.keepWaiting ∨ t = s := by tauto
  cases i <;> try (cases hi)
  case nop => cases h; exact .inl (turn_finish _ _)
  case crcInit => cases h; exact .inl ((Act.setCrcAcc _).turn (turn_finish _ _))
  case crcByte => cases h; exact .inl ((Act.setCrcAcc _).turn (turn_finish _ _))
  case crcFinal => cases h; exact .inl ((Act.setCrcOut _).turn (turn_finish _ _))
  case crcBlob => cases h; exact .inl ((made_crcBlob s).turn (turn_finish _ _))
  case kdf r =>
    cases h
    refine .inl (Made.turn (.tail (made_setDigests _ s) (.setBuf _ _ ?_)) (turn_finish _ _))
    cases r <;> simp [coreBuffer, selectedMask]
  case patch =>
    cases h
    left
    split
    · exact turn_raise _ _ _
    · next hl =>
      refine (Act.setBuf _ _ ?_).turn (turn_finish _ _)
      rw [patchedBlob_length s (by simpa using hl)]
      simp [coreBuffer, cfgBase]
  case openDev => exact absurd rfl ho
  case closeDev => exact absurd rfl hc
  case send f c n => cases h; exact .inl (turn_needSession (turn_sendOpen f c n s))
  case recv a =>
    simp only [exec, execRecv] at h
    split at h <;> cases h
    · exact .inl (turn_recvStart a s)
    · exact hor turn_recvGoOn
  case recvRetry n =>
    simp only [exec, execRecvRetry] at h
    split at h <;> cases h
    · exact .inl (turn_needSession (turn_attempt 1 (.inr (.inl ⟨n, rfl, rfl⟩))))
    · exact hor turn_recvRetryGoOn
  case configure =>
    simp only [exec, execConfigure, configureGoOn] at h
    split at h
    · cases h
      exact .inl (Act.beginConfigure.turn (turn_needSession (turn_cfgStep1 _)))
    · split at h
      · cases h; exact .inr (.inl rfl)
      · next hd =>
        split at h
        · next hcc =>
          cases h
          exact .inl ((made_receive hd).turn (turn_configureCaptured (rxLen_receive_le hd) hcc))
        · cases h
    · cases h
  case rngStream =>
    simp only [exec, execRngStream] at h
    split at h <;> cases h
    · exact .inl (turn_needSession (Act.zeroRngCounts.turn (Ends.loopTop (.inl rfl)).turn))
    · exact .inl (turn_rngLoopTop s)
    · exact hor turn_rngGoOn
  case seedStream =>
    simp only [exec, execSeedStream] at h
    split at h <;> cases h
    · exact .inl (turn_needSession (Act.zeroSeedCounts.turn (Ends.loopTop (.inr rfl)).turn))
    · left
      unfold seedLoopTop
      split
      · exact turn_seedCancel s
      · exact (Ends.waitForInput rfl).turn
    · rcases turn_seedInput (s := s) with e | e
      · exact .inr (.inr e)
      · exact .inl e
    · exact hor turn_seedGoOn
  case wipe =>
    simp only [exec, execWipe] at h
    split at h <;> cases h
    · exact .inl (turn_wipeStart s)
    · exact hor turn_wipeGoOn
  case wink =>
    cases h
    exact .inl (turn_needSession
      (Made.turn (made_transmitLong _ s (by simp)) (turn_afterTransmit (turn_finish _ _))))
  case boot =>
    cases h
    exact .inl (turn_needSession
      (turn_sendBoth (made_transmitShort _ (by simp) s) (made_transmitLong _ _ (by simp))))
  case bootDestroy =>
    cases h
    exact .inl (turn_needSession
      (turn_sendBoth (made_transmitShort _ (by simp) s) (made_transmitLong _ _ (by simp))))
  case reserved => cases h; exact .inl (turn_raise _ _ _)

/-- A property that the shared operations and the endings keep is kept by every operation but OPEN and
CLOSE. -/
theorem exec_keeps {P : State → State → Prop} (hr : ∀ s, P s s)
    (ht : ∀ s t u, P s t → P t u → P s u) (ha : ∀ s t, Act s t → P s t)
    (he : ∀ i s t, Ends i s t → P s t) {i : Instr} {s t : State} (hi : i.isCommand = true)
    (ho : i ≠ .openDev) (hc : i ≠ .closeDev) (h : exec i s = .next t) : P s t := by
  rcases turn_exec hi ho hc h with ⟨u, hm, hu⟩ | rfl | rfl
  · exact ht _ _ _ (hm.keeps hr ht ha) (he _ _ _ hu)
  · exact ha _ _ .keepWaiting
  · exact hr _

/-- OPEN faults, or opens a session and ends (43_transport.md R139). -/
theorem execOpen_cases {s t : State} (h : exec .openDev s = .next t) :
    Turn .openDev s t ∨ ∃ d, openedToken s = some d ∧ t = (s.dropOpen.openSession d).finish := by
  cases h
  split
  · exact .inl (turn_raise _ _ _)
  · split
    · exact .inl (turn_raise _ _ _)
    · unfold openTaken
      split
      · exact .inl (Act.dropOpen.turn (turn_raise _ _ _))
      · next d hd => exact .inr ⟨d, hd, rfl⟩

/-- CLOSE ends the session and the operation (43_transport.md R140). -/
theorem execClose_eq (s : State) : exec .closeDev s = .next s.closeSession.finish := rfl

/-- A wire frame's meaning is the Transmit of its encoding (43_transport.md R135). -/
theorem exec_wire {i : Instr} (hi : i.isCommand = false) (s : State) :
    exec i s = .next (s.transmit (encode s.params i)) := by
  cases i
  all_goals first
    | (simp [Instr.isCommand] at hi; done)
    | (simp only [exec, encode]; rfl)

/-- The latch holds an operation, never a wire frame (30_encoding.md R80, R81). -/
theorem isCommand_latched (s : State) : (latched s).isCommand = true := by
  unfold latched decodeWord
  split <;> rfl

end Sys2Proof.Machine
end

