-- ==== Sys2Proof/Laws/Steps.lean ====
section
/-! SUPPORT. What a step of the whole system can be, said once: a CORE step, a HOST access, a poll of STATUS,
or a reset; what a HOST write can do; and how CONFIGURE goes on from an await. -/

namespace Sys2Proof.Machine

/-- A CORE step: none in phase IDLE, else one step of the latched operation (40_control.md R107). -/
theorem coreStep_cases {s t : State} (h : coreStep s = .next t) :
    (s.phase = .idle ∧ t = s) ∨ (s.phase ≠ .idle ∧ exec (latched s) s = .next t) := by
  unfold coreStep at h
  split at h
  · cases h
    exact .inl ⟨by assumption, rfl⟩
  all_goals exact .inr ⟨by simp [*], h⟩

/-- Outside phase IDLE a CORE step is a step of the latched operation. -/
theorem coreStep_busy {s : State} (h : s.phase ≠ .idle) : coreStep s = exec (latched s) s := by
  unfold coreStep
  split
  · exact absurd (by assumption) h
  all_goals rfl

/-- A poll changes what the HOST has read and the moves that come next, and nothing else (30_encoding.md
R84). -/
theorem pollStatus_eq (again : Byte → Bool) (m : Move) (s : State) :
    ∃ q, pollStatus again m s = { s with rdata := s.readByte statusOffset, sched := q } ∧
      (q = s.sched ∨ q = .core :: m :: s.sched) := by
  unfold pollStatus hostReadByte
  dsimp only
  split
  · exact ⟨_, rfl, .inr rfl⟩
  · exact ⟨s.sched, rfl, .inl rfl⟩

/-- What a step that answers a next state can be. -/
theorem step_cases {s t : State} (h : step s = .next t) :
    (∃ r, coreStep { s with sched := r } = .next t ∧
        ((s.sched = [] ∧ r = []) ∨ s.sched = .core :: r)) ∨
      (∃ off r, s.sched = .hostRead off 1 :: r ∧ t = { s with sched := r, rdata := s.readByte off }) ∨
      (∃ off v r, s.sched = .hostWrite off [v] :: r ∧ t = State.writeByte off v { s with sched := r }) ∨
      (∃ again m r, s.sched = m :: r ∧ moveIsAccess m = true ∧ m ≠ .reset ∧
        t = pollStatus again m { s with sched := r }) ∨
      (∃ r, s.sched = .reset :: r ∧ t = State.platformReset { s with sched := r }) := by
  unfold step systemStep at h
  split at h
  · next hs => exact .inl ⟨[], by rw [← hs]; exact h, .inl ⟨hs, rfl⟩⟩
  · next m r hs =>
    unfold moveStep at h
    split at h
    · exact .inl ⟨r, h, .inr hs⟩
    · unfold hostRead at h
      split at h
      · next e => subst e; cases h; exact .inr (.inl ⟨_, r, hs, rfl⟩)
      · cases h
    · unfold hostWrite at h
      split at h
      · cases h; exact .inr (.inr (.inl ⟨_, _, r, hs, rfl⟩))
      · cases h
    · cases h; exact .inr (.inr (.inr (.inl ⟨_, _, r, hs, rfl, by simp, rfl⟩)))
    · cases h; exact .inr (.inr (.inr (.inl ⟨_, _, r, hs, rfl, by simp, rfl⟩)))
    · cases h; exact .inr (.inr (.inr (.inr ⟨r, hs, rfl⟩)))

/-- What a HOST write can do (20_memory.md R64, R65, 40_control.md R106, R111, 45_supplementary.md R165). -/
theorem writeByte_cases (s : State) (off : Offset) (v : Byte) :
    s.writeByte off v = s ∨ s.writeByte off v = s.setOvr ∨
      (s.status.busy = false ∧ s.writeByte off v = s.issue v) ∨
      s.writeByte off v = { s with cancelReq := true } ∨
      (seedInAccepts v s = true ∧ s.writeByte off v = s.commitChunk v) ∨
      (accessOf off.toNat = .rw ∧ off.toNat ≠ 0x000 ∧
        (s.status.busy = false ∨ anyTime off.toNat = true) ∧
        s.writeByte off v = s.storeByte off.toNat v) := by
  unfold State.writeByte
  split
  · next hrw =>
    split
    · unfold writeOpc
      split
      · exact .inr (.inl rfl)
      · next h => exact .inr (.inr (.inl ⟨by simpa using h, rfl⟩))
    · next h0 =>
      split
      · exact .inr (.inl rfl)
      · next h =>
        refine .inr (.inr (.inr (.inr (.inr ⟨hrw, h0, ?_, rfl⟩))))
        cases hb : s.status.busy <;> simp [hb] at h ⊢
        exact h
  · split
    · unfold writeCtrl
      split
      · exact .inr (.inr (.inr (.inl rfl)))
      · exact .inl rfl
    · unfold writeSeedIn
      split
      · next h => exact .inr (.inr (.inr (.inr (.inl ⟨h, rfl⟩))))
      · exact .inr (.inl rfl)
  · exact .inl rfl
  · exact .inl rfl

/-! ## CONFIGURE from an await on -/

/-- What CONFIGURE does with an outcome the TOKEN delivers. -/
theorem exec_configure_delivers {s : State} {lim : Timeout} {o : RxOutcome}
    (hp : s.phase = .await lim .afterAwait) (hd : Delivers lim o s) :
    exec .configure s =
      match configureCaptured o (s.receive o) with
      | some t => .next t
      | none => .fault .noSuchPosition := by
  show execConfigure s = _
  cases h : configureCaptured o (s.receive o) <;>
    simp only [execConfigure, hp, configureGoOn, hd.delivered, h]

/-- A response whose byte 1 is 0x01 passes the checks of an exchange (44_sequencer.md R147). -/
theorem checkExchange_success {s : State} {x : Byte} {bs : List Byte} (e : ErrName) (k : State → State)
    (h : (x :: 0x01 :: bs).length ≤ 64) :
    checkExchange (.data (x :: 0x01 :: bs)) e k (s.receive (.data (x :: 0x01 :: bs))) =
      k (s.receive (.data (x :: 0x01 :: bs))) := by
  have hlen : (responseBytes (.data (x :: 0x01 :: bs))).length ≤ 64 := h
  unfold checkExchange
  dsimp only
  rw [if_neg, if_neg]
  · rw [rx_receive _ _ hlen (by omega)]
    simp [responseBytes]
  · rw [rxLen_receive _ _ hlen]
    simp [responseBytes]

end Sys2Proof.Machine
end

