-- ==== Sys2Proof/Tests/Slice0.lean ====
section
/-! SUPPORT. Tests. The expected values are those of the spec: the test profile, the vectors and the examples of
95_test_vectors.md, and words written out from the tables of 30_encoding.md. The last part shows, for each
statement with hypotheses, a state and operands that meet them, each clause at the ends of its range. -/

namespace Sys2Proof.Tests

open Sys2Proof.Machine

/-! ## The test profile and small states -/

/-- The values of the OPEN parameters in 95_test_vectors.md section 0. -/
def profile : Params :=
  { cmd := { isBuild := 0x81, getSerial := 0x80, isConfigured := 0x82, lock := 0x83, genKey := 0x84
             loadTransKey := 0x85, loadWriteKey := 0x86, loadAttestKey := 0x87, bootloader := 0x88
             bootloaderDestroy := 0x89, rng := 0x21, seed := 0x22, wipe := 0x23, wink := 0x24 }
    vid := 0x10C4, pid := 0x8ACF
    template := Vector.ofFn fun i => BitVec.ofNat 8 i.val
    rngEchoOff := 4, rngLenOff := 6, rngDataOff := 7, seedOkOff := 1, wipeOkOff := 1
    serialResend := false, longBcnt := false }

/-- The token of 95_test_vectors.md Part 3, with serial "ABCD". -/
def token : Token := { vid := 0x10C4, pid := 0x8ACF, serial := [0x41, 0x42, 0x43, 0x44] }

/-- The state after reset, with the test profile. -/
def fresh : State := { State.reset with params := profile }

/-- A session open with the token. -/
def opened : State :=
  { fresh with session := some token, status := { Status.zero with opened := true } }

/-- An operation that stands at a phase, a session being open. -/
def running (op : Byte) (ph : Phase) : State :=
  { opened with opl := op, phase := ph, status := { Status.zero with opened := true, busy := true } }

/-- The position after an await. -/
def waiting (op : Byte) (lim : Timeout) : State := running op (.await lim .afterAwait)

/-- The outcomes of the next Transmits. -/
def sending (os : List TxOutcome) (s : State) : State := { s with env := { s.env with tx := os } }

/-- The TOKEN delivers these outcomes next. -/
def hearing (os : List RxOutcome) (s : State) : State :=
  { s with env := { s.env with rx := os.map .deliver } }

/-- The ENVIRONMENT's next answer to an OPEN. -/
def offering (ts : List Token) (pick : Option Nat) (s : State) : State :=
  { s with env := { s.env with opens := [{ attached := ts, pick := pick }] } }

/-- What is read off the next state, if there is one. -/
def after {α : Type} (f : State → α) : Host.Outcome State Fault Refusal → Option α
  | .next t => some (f t)
  | .fault _ => none
  | .refused _ => none

/-- STATUS as the HOST reads it, and ERR_CODE. -/
def report (s : State) : Byte × Byte := (s.status.toByte, s.errCode)

/-- The bytes 0, 1, ..., n - 1. -/
def counting (n : Nat) : List Byte := (List.range n).map fun i => BitVec.ofNat 8 i

/-- ASCII "hello", the chunk of V-FRM-10. -/
def hello : List Byte := [0x68, 0x65, 0x6C, 0x6C, 0x6F]

/-! ## WellFormed refuses what the encodings cannot write -/

theorem test_wf_reserved : (Instr.reserved 0x13).wellFormed = false := by decide
theorem test_wf_trans_key_short :
    (Instr.wireLoadTransKey (List.replicate 31 0)).wellFormed = false := by decide
theorem test_wf_trans_key_long :
    (Instr.wireLoadTransKey (List.replicate 33 0)).wellFormed = false := by decide
theorem test_wf_write_key_short :
    (Instr.wireLoadWriteKey (List.replicate 32 0)).wellFormed = false := by decide
theorem test_wf_write_key_long :
    (Instr.wireLoadWriteKey (List.replicate 37 0)).wellFormed = false := by decide
theorem test_wf_attest_key :
    (Instr.wireLoadAttestKey (List.replicate 31 0)).wellFormed = false := by decide
theorem test_wf_seed_empty : (Instr.wireSeed []).wellFormed = false := by decide
theorem test_wf_seed_long : (Instr.wireSeed (List.replicate 21 0)).wellFormed = false := by decide

/-! ## Every constructor's decoding, from words written out by the tables -/

/-- 30_encoding.md R77, R80: OPC in bits 31:24, A in 23:16, B in 15:8, C in 7:0; an argument an operation
ignores may hold anything. -/
theorem test_decode_control :
    decodeTableWord 32 0x00000000 = some .nop ∧ decodeTableWord 32 0x00FFFFFF = some .nop ∧
      decodeTableWord 32 0x01000000 = some (.reserved 0x01) ∧
      decodeTableWord 32 0x0F000000 = some (.reserved 0x0F) ∧
      decodeTableWord 32 0xFF123456 = some (.reserved 0xFF) := by decide

theorem test_decode_crc :
    decodeTableWord 32 0x10000000 = some .crcInit ∧ decodeTableWord 32 0x11310000 = some (.crcByte 0x31) ∧
      decodeTableWord 32 0x12390000 = some .crcFinal ∧ decodeTableWord 32 0x13390000 = some .crcBlob := by
  decide

theorem test_decode_kdf :
    decodeTableWord 32 0x20000000 = some (.kdf false) ∧ decodeTableWord 32 0x20010000 = some (.kdf true) ∧
      decodeTableWord 32 0x20FE0000 = some (.kdf false) := by decide

theorem test_decode_sequencer :
    decodeTableWord 32 0x30000000 = some .patch ∧ decodeTableWord 32 0x50000000 = some .configure := by
  decide

theorem test_decode_transport :
    decodeTableWord 32 0x40000000 = some .openDev ∧ decodeTableWord 32 0x41000000 = some .closeDev ∧
      decodeTableWord 32 0x42012205 = some (.send 0x01 0x22 0x05) ∧
      decodeTableWord 32 0x43010000 = some (.recv 0x01) ∧
      decodeTableWord 32 0x44050000 = some (.recvRetry 0x05) := by decide

theorem test_decode_supplementary :
    decodeTableWord 32 0x60000000 = some .rngStream ∧ decodeTableWord 32 0x61000000 = some .seedStream ∧
      decodeTableWord 32 0x62000000 = some .wipe ∧ decodeTableWord 32 0x63000000 = some .wink ∧
      decodeTableWord 32 0x64000000 = some .boot ∧ decodeTableWord 32 0x65000000 = some .bootDestroy := by
  decide

/-- The short frames of V-FRM-1 to V-FRM-7, and those of R93, R95 and R100. -/
theorem test_decode_short_frames :
    decodeFrame profile [0x00, 0x81] = .ok .wireIsBuild ∧
      decodeFrame profile [0x00, 0x80] = .ok .wireGetSerial ∧
      decodeFrame profile [0x00, 0x82] = .ok .wireIsConfigured ∧
      decodeFrame profile [0x00, 0x83, 0x76, 0x11] = .ok (.wireLock 0x76 0x11) ∧
      decodeFrame profile [0x00, 0x84] = .ok .wireGenKey ∧
      decodeFrame profile [0x00, 0x88] = .ok .wireBootloaderShort ∧
      decodeFrame profile [0x00, 0x89] = .ok .wireBootloaderDestroyShort := by
  refine ⟨rfl, rfl, rfl, rfl, rfl, rfl, rfl⟩

theorem test_decode_key_frames :
    decodeFrame profile ([0x00, 0x85] ++ List.replicate 32 0x00) =
        .ok (.wireLoadTransKey (List.replicate 32 0x00)) ∧
      decodeFrame profile ([0x00, 0x86] ++ List.replicate 36 0xBC) =
        .ok (.wireLoadWriteKey (List.replicate 36 0xBC)) ∧
      decodeFrame profile ([0x00, 0x87] ++ List.replicate 32 0x11) =
        .ok (.wireLoadAttestKey (List.replicate 32 0x11)) := by
  refine ⟨rfl, rfl, rfl⟩

/-- The long frames of V-FRM-8 to V-FRM-12 and V-FRM-15. -/
theorem test_decode_long_frames :
    decodeFrame profile [0x00, 0xFF, 0xFF, 0xFF, 0xFF, 0x88] = .ok .wireBootloaderLong ∧
      decodeFrame profile [0x00, 0xFF, 0xFF, 0xFF, 0xFF, 0x89] = .ok .wireBootloaderDestroyLong ∧
      decodeFrame profile [0x00, 0xFF, 0xFF, 0xFF, 0xFF, 0x21] = .ok .wireRng ∧
      decodeFrame profile ([0x00, 0xFF, 0xFF, 0xFF, 0xFF, 0x22] ++ hello) = .ok (.wireSeed hello) ∧
      decodeFrame profile [0x00, 0xFF, 0xFF, 0xFF, 0xFF, 0x23] = .ok .wireWipe ∧
      decodeFrame profile [0x00, 0xFF, 0xFF, 0xFF, 0xFF, 0x24] = .ok .wireWink := by
  refine ⟨rfl, rfl, rfl, rfl, rfl, rfl⟩

theorem test_decode_refuses :
    decodeCommand [0x11, 0x31, 0x00] = .error (.notFourBytes 3) ∧
      decodeFrame profile [0x01, 0x81] = .error .badReportId ∧
      decodeFrame profile [0x00] = .error (.badFrameLength 1) ∧
      decodeFrame profile (List.replicate 65 0x00) = .error (.badFrameLength 65) ∧
      decodeFrame profile [0x00, 0x21] = .error (.unknownCommand 0x21) ∧
      decodeFrame profile [0x00, 0x83, 0x76] = .error .badPayload := by
  refine ⟨rfl, rfl, rfl, rfl, rfl, rfl⟩

/-! ## The operations, one step each -/

/-- V-CTL-1 and V-CTL-4. -/
theorem test_nop : after report (exec .nop (State.issue 0x00 fresh)) = some (0x02, 0x00) := by decide
/-- V-CTL-2. -/
theorem test_reserved :
    after report (exec (.reserved 0x01) (State.issue 0x01 fresh)) = some (0x06, 0x10) := by decide
/-- V-CRC-16. -/
theorem test_crc_init :
    after (fun t => (t.crcAcc, t.crcOut)) (exec .crcInit { fresh with crcAcc := 0x1234, crcOut := 0x5678 }) =
      some (0x0000, 0x5678) := by decide
/-- The trace of 0x80 in 95_test_vectors.md 2.2. -/
theorem test_crc_byte : after State.crcAcc (exec (.crcByte 0x80) fresh) = some 0xA001 := by decide
/-- V-CRC-18: the accumulation goes on after CRC_FINAL. -/
theorem test_crc_byte_goes_on :
    after State.crcAcc (exec (.crcByte 0x00) { fresh with crcAcc := 0xBB3D }) = some 0xD17A := by decide
/-- V-CRC-17. -/
theorem test_crc_final :
    after (fun t => (t.crcAcc, t.crcOut)) (exec .crcFinal { fresh with crcAcc := 0xBB3D }) =
      some (0xBB3D, 0xBCDD) := by decide
/-- V-CRC-15 and V-CRC-19, in four parts: the bytes 00 to 7F give 0xF924, and reversed 0x249F. -/
theorem test_crc_quarters :
    crcFold 0x0000 (counting 32) = 0xC36A ∧
      crcFold 0xC36A ((counting 32).map (· + 32)) = 0x2799 ∧
      crcFold 0x2799 ((counting 32).map (· + 64)) = 0xBC3D ∧
      crcFold 0xBC3D ((counting 32).map (· + 96)) = 0xF924 ∧ rev16 0xF924 = 0x249F := by
  refine ⟨?_, ?_, ?_, ?_, ?_⟩ <;> decide +kernel

theorem test_crc_blob :
    after (fun t => (t.crcAcc, t.crcOut)) (exec .crcBlob (fresh.setBuf cfgBase (counting 128))) =
      some (0xF924, 0x249F) := by
  obtain ⟨h1, h2, h3, h4, h5⟩ := test_crc_quarters
  have hb := Memory.readBytes_writeBytes fresh.mem cfgBase (counting 128)
  rw [show (counting 128).length = 128 by simp [counting]] at hb
  have hc : counting 128 = counting 32 ++ (counting 32).map (· + 32) ++ (counting 32).map (· + 64) ++
      (counting 32).map (· + 96) := by decide +kernel
  have hf : crcFold 0x0000#16 (counting 128) = 0xF924 := by
    rw [hc, crcFold_append, crcFold_append, crcFold_append]
    rw [show (0x0000#16 : Word16) = 0x0000 from rfl, h1, h2, h3, h4]
  simp only [exec, execCrcBlob, after, State.crcBlob, State.buf, State.setBuf_mem, Config.cfgLen, hb,
    crc16, State.finish_crcAcc, State.finish_crcOut, State.setCrcOut_crcAcc, State.setCrcOut_crcOut,
    State.setCrcAcc_crcAcc]
  rw [hf, h5]
/-- V-CRC-6, "123456789". -/
theorem test_crc_reference :
    crc16Wire [0x31, 0x32, 0x33, 0x34, 0x35, 0x36, 0x37, 0x38, 0x39] = [0xBC, 0xDD] := by decide +kernel
/-- The stages of `rev16` in 95_test_vectors.md 2.2. -/
theorem test_rev16 :
    rev16 0x1234 = 0x2C48 ∧ rev16 0x00FF = 0xFF00 ∧ rev16 0xC0C1 = 0x8303 := by decide
/-- SHA-256 of "abc", 95_test_vectors.md 2.3. -/
theorem test_sha256 :
    hexText ((sha256 [0x61, 0x62, 0x63]).take 4) = [0x62, 0x61, 0x37, 0x38, 0x31, 0x36, 0x62, 0x66] := by
  decide +kernel
/-- V-KDF-7: the read key 00 01 ... 1f, the first and the last bytes of its mask; WMASK untouched. -/
theorem test_kdf_read_key :
    after (fun t => (t.buf rmaskBase 4, t.buf (rmaskBase + 32) 4, t.buf wmaskBase 4))
        (exec (.kdf true) (fresh.setBuf rkeyBase (counting 32))) =
      some ([0xD6, 0xD9, 0xA4, 0x44], [0x30, 0x64, 0x09, 0x17], [0x00, 0x00, 0x00, 0x00]) := by
  decide +kernel
/-- V-KDF-6: the zero write key and its second digest. -/
theorem test_kdf_write_key :
    after (fun t => (t.buf wmaskBase 4, t.buf digest2Base 4)) (exec (.kdf false) fresh) =
      some ([0xBC, 0x09, 0x32, 0xEA], [0x87, 0xBB, 0x0A, 0xE2]) := by decide +kernel
/-- V-PATCH-3: "ABCD" over the template. -/
theorem test_patch :
    after (fun t => (t.buf cfgBase 6, t.buf (cfgBase + 126) 2))
        (exec .patch { fresh.setBuf serialBase [0x41, 0x42, 0x43, 0x44] with serialLen := 4 }) =
      some ([0x41, 0x42, 0x43, 0x44, 0x04, 0x05], [0x7E, 0x7F]) := by decide +kernel
/-- V-PATCH-7. -/
theorem test_patch_too_long :
    after report (exec .patch { fresh with serialLen := 129 }) = some (0x06, 0x13) := by decide
/-- V-TR-1 and V-TR-5: FILTER "ABCD" matches. -/
theorem test_open :
    after report (exec .openDev
      (offering [token] (some 0)
        { fresh.setBuf filterBase [0x41, 0x42, 0x43, 0x44] with filterLen := 4 })) =
      some (0x12, 0x00) := by decide +kernel
/-- V-TR-4: FILTER "ABCE" does not. -/
theorem test_open_no_match :
    after report (exec .openDev
      (offering [token] (some 0)
        { fresh.setBuf filterBase [0x41, 0x42, 0x43, 0x45] with filterLen := 4 })) =
      some (0x06, 0x01) := by decide +kernel
/-- V-TR-7. -/
theorem test_close :
    after (fun t => (t.status.toByte, t.session)) (exec .closeDev opened) = some (0x02, none) := by decide
/-- V-TR-13. -/
theorem test_send_long :
    after (fun t => (t.buf txBase 12, t.txLen, t.status.toByte))
        (exec (.send 0x01 0x22 0x05) (sending [.sent] (opened.setBuf payloadBase hello))) =
      some ([0x00, 0xFF, 0xFF, 0xFF, 0xFF, 0x22, 0x68, 0x65, 0x6C, 0x6C, 0x6F, 0x00], 11, 0x12) := by
  decide +kernel
/-- V-TR-12: a payload of 59 bytes is too long for the long form. -/
theorem test_send_too_long :
    after report (exec (.send 0x01 0x22 0x3B) opened) = some (0x16, 0x13) := by decide
/-- V-TR-15. -/
theorem test_recv :
    after (fun t => (t.buf rxBase 3, t.rxLen, t.result, t.status.toByte))
        (exec (.recv 0x00) (hearing [.data [0x85, 0x01]] (waiting 0x43 .cfg))) =
      some ([0x85, 0x01, 0x00], 2, 0x01, 0x12) := by decide +kernel
/-- V-TR-16: a timeout is recorded and is no fault. -/
theorem test_recv_timeout :
    after report (exec (.recv 0x01) (hearing [.timeout] (waiting 0x43 .wipe))) = some (0x52, 0x00) := by
  decide +kernel
/-- V-TR-22: any response ends the retry. -/
theorem test_recv_retry_data :
    after (fun t => (t.result, t.rxLen, t.phase))
        (exec (.recvRetry 0x05) (hearing [.data [0x00]] (waiting 0x44 .cfg))) =
      some (0x01, 1, .idle) := by decide +kernel
/-- V-TR-21, its first failure: the second attempt of three starts. -/
theorem test_recv_retry_again :
    after (fun t => (t.tries, t.phase))
        (exec (.recvRetry 0x03) (hearing [.timeout] { waiting 0x44 .cfg with att := 1, tries := 1 })) =
      some (2, .await .cfg .afterAwait) := by decide +kernel
/-- V-SEQ-12: ATTKEY_LEN = 31 at step 9, whose frame is not sent. -/
theorem test_configure_attestation_key :
    after (fun t => (report t, t.errStep, t.linkLog.length))
        (exec .configure (hearing [.data [0x86, 0x01]]
          { waiting 0x50 .cfg with seqStep := 8, attkeyLen := 31 })) =
      some ((0x16, 0x06), 9, 1) := by decide +kernel
/-- V-SEQ-10. -/
theorem test_configure_lock_failed :
    after (fun t => (report t, t.errStep))
        (exec .configure (hearing [.data [0x83, 0x00]] { waiting 0x50 .cfg with seqStep := 4 })) =
      some ((0x16, 0x04), 4) := by decide +kernel
/-- V-SUP-1. -/
theorem test_rng_valid :
    after (fun t => (t.rngCount, t.outLog))
        (exec .rngStream (hearing [.data ([0, 0, 0, 0, 0x21, 0, 0x20] ++ counting 32)]
          (waiting 0x60 .inf))) =
      some (32, [.rngData (counting 32)]) := by decide +kernel
/-- V-SUP-3: a response of 38 bytes. -/
theorem test_rng_short :
    after (fun t => (t.diagCount, t.lastDiag, t.phase))
        (exec .rngStream (hearing [.data ([0, 0, 0, 0, 0x21, 0, 0x20] ++ counting 31)]
          (waiting 0x60 .inf))) =
      some (1, 0x03, .ready .loopTop) := by decide +kernel
/-- V-SUP-6: the accepted chunk is counted. -/
theorem test_seed_accepted :
    after State.seedCount
        (exec .seedStream (hearing [.data [0x22, 0x01]] { waiting 0x61 .inf with chunkN := 5 })) =
      some 5 := by decide +kernel
/-- V-SUP-9: a cancel in the wait for a chunk. -/
theorem test_seed_cancel :
    after (fun t => (t.status.toByte, t.outLog))
        (exec .seedStream { running 0x61 (.input .afterInput) with
          seedCount := 7, cancelReq := true
          status := { Status.zero with opened := true, busy := true, waitin := true } }) =
      some (0x12, [.seedSummary 7]) := by decide +kernel
/-- V-SUP-11, its last read. -/
theorem test_wipe :
    after (fun t => (t.result, report t))
        (exec .wipe (hearing [.data [0x23, 0x01]] (waiting 0x62 .wipe))) = some (0x01, (0x12, 0x00)) := by
  decide +kernel
/-- V-SUP-13: a response of one byte. -/
theorem test_wipe_short :
    after (fun t => (t.result, report t))
        (exec .wipe (hearing [.data [0x23]] { waiting 0x62 .wipe with result := 1 })) =
      some (0x00, (0x12, 0x00)) := by decide +kernel
/-- V-SUP-15, the frame being V-FRM-12. -/
theorem test_wink :
    after (fun t => (t.buf txBase 7, t.txLen)) (exec .wink (sending [.sent] opened)) =
      some ([0x00, 0xFF, 0xFF, 0xFF, 0xFF, 0x24, 0x00], 6) := by decide +kernel
/-- V-SUP-16 and V-SUP-18: two frames, the last of them V-FRM-8 and V-FRM-15. -/
theorem test_boot :
    after (fun t => (t.linkLog.length, t.buf txBase 6, t.txLen)) (exec .boot (sending [.sent, .sent] opened)) =
      some (2, [0x00, 0xFF, 0xFF, 0xFF, 0xFF, 0x88], 6) := by decide +kernel
theorem test_boot_destroy :
    after (fun t => (t.linkLog.length, t.buf txBase 6, t.txLen))
        (exec .bootDestroy (sending [.sent, .sent] opened)) =
      some (2, [0x00, 0xFF, 0xFF, 0xFF, 0xFF, 0x89], 6) := by decide +kernel
/-- V-SUP-17: a link error of the short frame stops BOOT. -/
theorem test_boot_link_error :
    after (fun t => (report t, t.linkLog.length, t.txLen)) (exec .boot (sending [.linkError] opened)) =
      some ((0x16, 0x14), 1, 2) := by decide +kernel

/-! ## The wire frames -/

/-- The meaningful bytes and TXLEN of V-FRM-1, V-FRM-3, V-FRM-10 and V-FRM-15 in TXBUF. -/
theorem test_wire_frames :
    after (fun t => (t.buf txBase 3, t.txLen)) (exec .wireIsBuild fresh) = some ([0x00, 0x81, 0x00], 2) ∧
      after (fun t => (t.buf txBase 5, t.txLen)) (exec (.wireLock 0x76 0x11) fresh) =
        some ([0x00, 0x83, 0x76, 0x11, 0x00], 4) ∧
      after (fun t => (t.buf txBase 11, t.txLen)) (exec (.wireSeed hello) fresh) =
        some ([0x00, 0xFF, 0xFF, 0xFF, 0xFF, 0x22] ++ hello, 11) ∧
      after (fun t => (t.buf txBase 6, t.txLen)) (exec .wireBootloaderDestroyLong fresh) =
        some ([0x00, 0xFF, 0xFF, 0xFF, 0xFF, 0x89], 6) := by
  refine ⟨?_, ?_, ?_, ?_⟩ <;> decide +kernel

/-- The length bytes of the variant `P_LONG_BCNT` (30_encoding.md R87). -/
theorem test_wire_long_variant :
    encode { profile with longBcnt := true } (.wireSeed hello) =
      [0x00, 0xFF, 0xFF, 0xFF, 0xFF, 0x22, 0x00, 0x05] ++ hello := by decide

/-! ## The HOST -/

/-- V-CTL-8: the late write is dropped and sets OVR. -/
theorem test_busy_write :
    ((State.issue 0x11 { fresh with argA := 0x31 }).writeByte 0x001 0x32).argA = 0x31 ∧
      ((State.issue 0x11 { fresh with argA := 0x31 }).writeByte 0x001 0x32).status.ovr = true := by decide
/-- V-CTL-6: a write to a read-only register is ignored. -/
theorem test_read_only_write :
    (running 0x60 (.ready .loopTop)).writeByte 0x014 0x12 = running 0x60 (.ready .loopTop) := by rfl
/-- Program P1, line 2: the accesses of `RUN CRC_BYTE A=0x31`. -/
theorem test_run_line :
    (HostLine.run 0x11 (some 0x31) none none).moves =
      some [.hostWrite 0x001 [0x31], .hostWrite 0x000 [0x11], .wait] := by decide
/-- Program P6: `CHUNK` and `EOF`. -/
theorem test_chunk_lines :
    (HostLine.chunk [0x68, 0x65]).moves =
        some [.hostWrite 0x320 [0x68], .hostWrite 0x321 [0x65], .hostWrite 0x013 [0x02]] ∧
      HostLine.eof.moves = some [.hostWrite 0x013 [0x00]] := by decide
/-- A LOAD ends inside the window, and a CHUNK has 1 to 20 bytes (R84, U26). -/
theorem test_lines_outside_the_domain :
    assemble [.load 0x3FF [0x01]] = some [.hostWrite 0x3FF [0x01]] ∧
      assemble [.wait, .load 0x3FF [0x01, 0x02]] = none ∧
      assemble [.chunk []] = none ∧ assemble [.chunk (counting 21)] = none ∧
      (assemble [.chunk (counting 20)]).isSome = true := by decide
/-- A placed word is the operation the next step runs. -/
theorem test_placed_word :
    after State.crcAcc (step (fresh.withFetchWord 32 0x11310000)) = some 0xD4C1 := by decide +kernel
/-- A placed frame, V-FRM-1, is transmitted by the next step. -/
theorem test_placed_frame :
    after (fun t => (t.buf txBase 2, t.linkLog.length, t.status.toByte))
        (step ((sending [.sent] fresh).withFetchWord 16 0x8100)) = some ([0x00, 0x81], 1, 0x12) := by
  decide +kernel

/-! ## Witnesses: for each statement with hypotheses, a state and operands that meet them

The clauses that only differ in the answer of the TOKEN or in a length have one conjunct each, at the ends of
the range. -/

theorem wit_CommandWordsRoundTrip :
    ((Instr.send 0xFF 0xFF 0xFF).isCommand = true ∧ (Instr.send 0xFF 0xFF 0xFF).wellFormed = true) ∧
      ((Instr.reserved 0x01).isCommand = true ∧ (Instr.reserved 0x01).wellFormed = true) ∧
      ((Instr.reserved 0xFF).isCommand = true ∧ (Instr.reserved 0xFF).wellFormed = true) := by decide

theorem wit_WireFramesRoundTrip :
    profile.cmd.Unambiguous ∧
      ((Instr.wireSeed [0]).isCommand = false ∧ (Instr.wireSeed [0]).wellFormed = true) ∧
      ((Instr.wireSeed (counting 20)).isCommand = false ∧
        (Instr.wireSeed (counting 20)).wellFormed = true) ∧
      ((Instr.wireLoadWriteKey (counting 36)).isCommand = false ∧
        (Instr.wireLoadWriteKey (counting 36)).wellFormed = true) := by decide

theorem wit_DecodedFramesEncodeBack :
    decodeFrame profile [0x00, 0x81] = .ok .wireIsBuild ∧
      decodeFrame profile (encode profile (.wireSeed (counting 20))) = .ok (.wireSeed (counting 20)) :=
  ⟨rfl, rfl⟩

theorem wit_StepRunsTheLatchedOperation :
    (fresh.sched = [] ∧ fresh.phase = .idle) ∧
      (let s := { waiting 0x50 .cfg with sched := [.core, .wait] }
       s.sched = .core :: [.wait] ∧ s.phase ≠ .idle) := by decide

theorem wit_PlacedCommandWordRuns :
    decodeTableWord 32 0x00000000 = some .nop ∧ decodeTableWord 32 0xFFFFFFFF = some (.reserved 0xFF) := by
  decide

theorem wit_PlacedFrameIsTransmitted :
    (16 ≠ 32 ∧ fresh.params.longBcnt = false ∧ Instr.wireIsBuild.isCommand = false ∧
        Instr.wireIsBuild.wellFormed = true ∧
        bytesOfNat (16 / 8) 0x8100 = encode fresh.params .wireIsBuild) ∧
      (304 ≠ 32 ∧ (Instr.wireLoadWriteKey (List.replicate 36 0)).isCommand = false ∧
        (Instr.wireLoadWriteKey (List.replicate 36 0)).wellFormed = true ∧
        bytesOfNat (304 / 8) 0x8600 = encode fresh.params (.wireLoadWriteKey (List.replicate 36 0))) := by
  decide

theorem wit_HostAccessesAreSingleBytes :
    { fresh with sched := [.hostRead 0x004 1] }.sched = .hostRead 0x004 1 :: [] ∧
      { fresh with sched := [.hostWrite 0x001 [0xAA]] }.sched = .hostWrite 0x001 [0xAA] :: [] ∧
      (0 ≠ 1 ∧ { fresh with sched := [.hostRead 0x004 0] }.sched = .hostRead 0x004 0 :: []) ∧
      (2 ≠ 1 ∧ { fresh with sched := [.hostRead 0x004 2] }.sched = .hostRead 0x004 2 :: []) ∧
      (([] : List Byte).length ≠ 1 ∧
        { fresh with sched := [.hostWrite 0x001 []] }.sched = .hostWrite 0x001 [] :: []) ∧
      (([1, 2] : List Byte).length ≠ 1 ∧
        { fresh with sched := [.hostWrite 0x001 [1, 2]] }.sched = .hostWrite 0x001 [1, 2] :: []) := by
  decide

theorem wit_BusyWritesAreDropped :
    (waiting 0x50 .cfg).status.busy = true ∧
      ∀ off ∈ [0x000#10, 0x003, 0x00C, 0x011, 0x0C0, 0x25F, 0x340, 0x37F],
        inRanges [(0x000, 4), (0x00C, 6), (0x0C0, 416), (0x340, 64)] off.toNat = true := by decide

theorem wit_AcceptedWritesAreStored :
    (fresh.status.busy = false ∧
        ∀ off ∈ [0x001#10, 0x003, 0x00C, 0x011, 0x0C0, 0x25F, 0x340, 0x37F],
          inRanges [(0x001, 3), (0x00C, 6), (0x0C0, 416), (0x340, 64)] off.toNat = true) ∧
      ∀ off ∈ [0x320#10, 0x333], inRanges [(0x320, 20)] off.toNat = true := by decide

theorem wit_ReadOnlyAndReservedOffsets :
    (∀ off ∈ [0x004#10, 0x007, 0x009, 0x00B, 0x012, 0x014, 0x03F, 0x040, 0x0BF, 0x260, 0x31F, 0x334,
        0x33F, 0x380, 0x3FF],
      inRanges [(0x004, 4), (0x009, 3), (0x012, 1), (0x014, 44), (0x040, 128), (0x260, 192),
        (0x334, 12), (0x380, 128)] off.toNat = true) ∧
      ∀ off ∈ [0x008#10, 0x013, 0x025, 0x03F, 0x284, 0x29F, 0x2C4, 0x2DF, 0x334, 0x33F],
        inRanges [(0x008, 1), (0x013, 1), (0x025, 27), (0x284, 28), (0x2C4, 28), (0x334, 12)]
          off.toNat = true := by decide

theorem wit_TemplateNeverChanges : step fresh = .next fresh := rfl

theorem wit_IssueLatchesTheOperation :
    (waiting 0x50 .cfg).status.busy = true ∧ fresh.status.busy = false := ⟨rfl, rfl⟩

theorem wit_CancelRequestIsBitZero :
    ((0x01 : Byte).getLsbD 0 = true ∧ (0xFF : Byte).getLsbD 0 = true) ∧
      ((0x00 : Byte).getLsbD 0 = false ∧ (0xFE : Byte).getLsbD 0 = false) := by decide

/-- SEED_STREAM in its input wait. -/
def seedWaiting : State :=
  { running 0x61 (.input .afterInput) with
    status := { Status.zero with opened := true, busy := true, waitin := true } }

theorem wit_SeedInCommitsAChunk :
    (seedWaiting.status.busy = true ∧ seedWaiting.opl = 0x61 ∧ seedWaiting.status.waitin = true ∧
        (0 : Byte).toNat ≤ 20 ∧ (20 : Byte).toNat ≤ 20) ∧
      ¬ (seedWaiting.status.busy = true ∧ seedWaiting.opl = 0x61 ∧ seedWaiting.status.waitin = true ∧
        (21 : Byte).toNat ≤ 20) ∧
      ¬ (fresh.status.busy = true ∧ fresh.opl = 0x61 ∧ fresh.status.waitin = true ∧
        (5 : Byte).toNat ≤ 20) := by decide

theorem wit_CanonicalMemoriesAreEqual :
    Memory.wf [(0x040, 0x01), (0x37F, 0xFF)] = true ∧
      ∀ a, Memory.read [(0x040, 0x01), (0x37F, 0xFF)] a = Memory.read [(0x040, 0x01), (0x37F, 0xFF)] a :=
  ⟨by decide, fun _ => rfl⟩

theorem wit_ResetGivesEveryValue :
    (0x000#10).toNat < 0x380 ∧ (0x37F#10).toNat < 0x380 ∧ 0x380 ≤ (0x380#10).toNat ∧
      0x380 ≤ (0x3FF#10).toNat ∧
      { waiting 0x50 .cfg with sched := [.reset] }.sched = .reset :: [] := by decide

theorem wit_BitReversalMovesEachBit : 0 < 16 ∧ 15 < 16 := by decide

theorem wit_MaskLengthsAndZeroKey : ([0x00, 0xAF] : List Byte)[1]? = some 0xAF := rfl

theorem wit_CrcBytewiseEqualsBlob :
    windowBytes fresh 0x100 128 = windowBytes fresh 0x100 128 := rfl

theorem wit_PatchOverlaysTheSerial :
    { fresh with serialLen := 0 }.serialLen.toNat ≤ 128 ∧
      { fresh with serialLen := 128 }.serialLen.toNat ≤ 128 ∧
      128 < { fresh with serialLen := 129 }.serialLen.toNat ∧
      128 < { fresh with serialLen := 255 }.serialLen.toNat := by decide

theorem wit_OpenAttachesToAMatch :
    opened.status.opened = true ∧
      (fresh.status.opened = false ∧ 64 < { fresh with filterLen := 65 }.filterLen.toNat) ∧
      (let s := offering [token] none fresh
       s.status.opened = false ∧ s.filterLen.toNat ≤ 64 ∧ (openAnswer s).pick = none) ∧
      (let s := offering [] (some 0) fresh
       s.status.opened = false ∧ s.filterLen.toNat ≤ 64 ∧ ∀ d ∈ (openAnswer s).attached, ¬ Eligible s d) ∧
      (let s := offering [token] (some 0) fresh
       s.status.opened = false ∧ s.filterLen.toNat ≤ 64 ∧ (openAnswer s).pick = some 0 ∧
         ∃ d ∈ (openAnswer s).attached, Eligible s d) := by
  refine ⟨rfl, ⟨rfl, by decide⟩, ⟨rfl, by decide, rfl⟩, ⟨rfl, by decide, ?_⟩,
    ⟨rfl, by decide, rfl, token, List.mem_singleton.mpr rfl, rfl, rfl, .inl rfl⟩⟩
  intro d hd
  cases hd

/-- A filter of the longest length, 64, is no bad argument. -/
theorem wit_OpenAttachesToAMatch_longest :
    let s := { offering [token] none fresh with filterLen := 64 }
    s.status.opened = false ∧ s.filterLen.toNat ≤ 64 ∧ (openAnswer s).pick = none := by decide

theorem wit_OpenMayTakeEveryMatch :
    fresh.status.opened = false ∧ fresh.filterLen.toNat ≤ 64 ∧ token ∈ [token, token] ∧
      Eligible fresh token := ⟨rfl, by decide, by decide, rfl, rfl, .inl rfl⟩

/-- No session is open: also the premise of the clauses of SEND, WINK, BOOT, BOOT_DESTROY, RECV, RECV_RETRY and
WIPE that fault with NoSession. -/
theorem wit_LinkOperationsNeedASession :
    { fresh with phase := .ready .start }.status.opened = false ∧
      { fresh with phase := .ready .start }.phase = .ready .start := by decide

theorem wit_SendTransmitsTheFrame :
    opened.status.opened = true ∧ txAnswer (sending [.sent] opened) = .sent ∧
      txAnswer (sending [.linkError] opened) = .linkError ∧
      (62 : Byte).toNat ≤ 62 ∧ ¬ (63 : Byte).toNat ≤ 62 ∧
      (58 : Byte).toNat ≤ (if opened.params.longBcnt then 56 else 58) ∧
      ¬ (59 : Byte).toNat ≤ (if opened.params.longBcnt then 56 else 58) ∧
      ¬ ((2 : Byte) = 0 ∨ (2 : Byte) = 1) := by decide

theorem wit_WinkAndBootSendTheirFrames :
    opened.status.opened = true ∧ opened.params.longBcnt = false ∧
      txAnswer (sending [.sent] opened) = .sent ∧ txAnswer (sending [.linkError] opened) = .linkError ∧
      (let s := sending [.sent, .sent] opened
       txAnswer s = .sent ∧ txAnswer (s.transmit [0x00, 0x88]) = .sent) ∧
      (let s := sending [.sent, .linkError] opened
       txAnswer s = .sent ∧ txAnswer (s.transmit [0x00, 0x88]) = .linkError) := by
  refine ⟨rfl, rfl, rfl, rfl, ⟨rfl, rfl⟩, ⟨rfl, rfl⟩⟩

theorem wit_WireFramesAreTransmitted :
    (List.replicate 32 (0 : Byte)).length = 32 ∧ (List.replicate 36 (0 : Byte)).length = 36 ∧
      (1 ≤ (counting 1).length ∧ (counting 1).length ≤ 20) ∧
      (1 ≤ (counting 20).length ∧ (counting 20).length ≤ 20) := by decide

/-- The TOKEN is silent at the next wait. -/
def quiet (s : State) : State := { s with env := { s.env with rx := [.silent] } }

theorem wit_RecvCapturesTheOutcome :
    ((running 0x43 (.ready .start)).phase = .ready .start ∧
        (running 0x43 (.ready .start)).status.opened = true ∧ (0 : Byte).toNat ≤ 1 ∧
        (1 : Byte).toNat ≤ 1 ∧ 1 < (2 : Byte).toNat) ∧
      (let s := hearing [.data (counting 64)] (waiting 0x43 .cfg)
       s.phase = .await .cfg .afterAwait ∧ Delivers .cfg (.data (counting 64)) s) ∧
      (let s := hearing [.timeout] (waiting 0x43 .wipe)
       s.phase = .await .wipe .afterAwait ∧ Delivers .wipe .timeout s) ∧
      (quiet (waiting 0x43 .cfg)).phase = .await .cfg .afterAwait ∧ Timeout.cfg ≠ .inf ∧
      NoDelivery .cfg (quiet (waiting 0x43 .cfg)) := by
  refine ⟨by decide, ⟨rfl, delivers_of_delivered rfl⟩, ⟨rfl, delivers_of_delivered rfl⟩, rfl, by decide,
    noDelivery_of_silent _ rfl⟩

theorem wit_RecvRetryStepByStep :
    ((running 0x44 (.ready .start)).phase = .ready .start ∧
        (running 0x44 (.ready .start)).status.opened = true) ∧
      (let s := hearing [.timeout] { waiting 0x44 .cfg with att := 5 }
       s.phase = .await .cfg .afterAwait ∧ Delivers .cfg .timeout s ∧
         (if (0 : Byte) = 0 then 5 else (0 : Byte).toNat) ≤ s.att.toNat) ∧
      (let s := hearing [.linkError] { waiting 0x44 .cfg with att := 4 }
       s.phase = .await .cfg .afterAwait ∧ Delivers .cfg .linkError s ∧
         s.att.toNat < (if (0 : Byte) = 0 then 5 else (0 : Byte).toNat)) ∧
      (quiet (waiting 0x44 .cfg)).phase = .await .cfg .afterAwait ∧
      NoDelivery .cfg (quiet (waiting 0x44 .cfg)) := by
  refine ⟨⟨rfl, rfl⟩, ⟨rfl, delivers_of_delivered rfl, by decide⟩,
    ⟨rfl, delivers_of_delivered rfl, by decide⟩, rfl, noDelivery_of_silent _ rfl⟩

/-- V-TR-19 (four failures and a response) and V-TR-20 (five failures). -/
theorem wit_RecvRetryWithFailures :
    (let fails := List.replicate 4 RxOutcome.timeout
     let s := { running 0x44 (.ready .start) with
                env := { Env.empty with
                         rx := fails.map TokenAnswer.deliver ++ TokenAnswer.deliver (.data [0x80]) :: [] } }
     s.phase = .ready .start ∧ s.opl = 0x44 ∧ s.status.opened = true ∧
       (∀ o ∈ fails, o = .timeout ∨ o = .linkError) ∧
       fails.length < (if s.al = 0 then 5 else s.al.toNat) ∧
       s.env.rx = fails.map TokenAnswer.deliver ++ .deliver (.data [0x80]) :: []) ∧
      (let fails := List.replicate 5 RxOutcome.timeout
       let s := hearing fails (running 0x44 (.ready .start))
       fails.length = (if s.al = 0 then 5 else s.al.toNat) ∧ fails.getLast? = some .timeout ∧
         s.env.rx = fails.map TokenAnswer.deliver ++ []) := by decide

theorem wit_ConfigureStartsWithIsBuild :
    (running 0x50 (.ready .start)).phase = .ready .start ∧
      (running 0x50 (.ready .start)).status.opened = true ∧
      txAnswer (sending [.sent] (running 0x50 (.ready .start))) = .sent ∧
      txAnswer (sending [.linkError] (running 0x50 (.ready .start))) = .linkError := by decide

/-- CONFIGURE in the await of a step, the TOKEN answering next. -/
def atStep (k : Byte) (o : RxOutcome) : State := hearing [o] { waiting 0x50 .cfg with seqStep := k }

/-- The steps whose accepted response goes on, each with a frame that is sent or not. -/
theorem wit_ExchangeChecksTheResponse_accepted :
    ∀ k ∈ [0x01#8, 0x06, 0x09, 0x0B],
      (atStep k (.data [0x88, 0x01])).phase = .await .cfg .afterAwait ∧
        (atStep k (.data [0x88, 0x01])).seqStep = k ∧
        Delivers .cfg (.data [0x88, 0x01]) (atStep k (.data [0x88, 0x01])) ∧
        txAnswer ((sending [.sent] (atStep k (.data [0x88, 0x01]))).receive (.data [0x88, 0x01])) = .sent ∧
        txAnswer ((sending [.linkError] (atStep k (.data [0x88, 0x01]))).receive (.data [0x88, 0x01])) =
          .linkError :=
  fun _ _ => ⟨rfl, rfl, delivers_of_delivered rfl, rfl, rfl⟩

theorem wit_ExchangeChecksTheResponse :
    (0x0B#8, ErrName.bootloaderTransitionFailed) ∈
        [(0x01#8, ErrName.notConfigured), (0x04, .lockFailed), (0x06, .keyLoadFailed),
          (0x08, .keyLoadFailed), (0x09, .keyLoadFailed), (0x0B, .bootloaderTransitionFailed)] ∧
      NoDelivery .cfg (quiet (atStep 0x0B .timeout)) ∧ Delivers .cfg .timeout (quiet (atStep 0x0B .timeout)) ∧
      (∀ o ∈ [RxOutcome.timeout, .linkError, .data [0x88], .data [0x88, 0x00], .data [0x88, 0x01]],
        (atStep 0x0B o).phase = .await .cfg .afterAwait ∧ (atStep 0x0B o).seqStep = 0x0B ∧
          Delivers .cfg o (atStep 0x0B o)) ∧
      ([0x88] : List Byte).length < 2 ∧ (0x00 : Byte) ≠ 0x01 := by
  refine ⟨by decide, noDelivery_of_silent _ rfl, delivers_of_delivered rfl, ?_, by decide, by decide⟩
  simp only [List.forall_mem_cons]
  exact ⟨⟨rfl, rfl, delivers_of_delivered rfl⟩, ⟨rfl, rfl, delivers_of_delivered rfl⟩, ⟨rfl, rfl, delivers_of_delivered rfl⟩,
    ⟨rfl, rfl, delivers_of_delivered rfl⟩, ⟨rfl, rfl, delivers_of_delivered rfl⟩, by simp⟩

/-- V-SEQ-1's response of step 2, V-SEQ-9's, whose serial is not received whole, and V-SEQ-19's. -/
theorem wit_SerialFetchStoresTheSerial :
    (∀ b ∈ [[0x80#8, 0x04, 0x41, 0x42, 0x43, 0x44], [0x80, 0x05, 0x41, 0x42, 0x43, 0x44], [0x80, 0x00]],
      (atStep 0x02 (.data b)).phase = .await .cfg .afterAwait ∧ (atStep 0x02 (.data b)).seqStep = 0x02 ∧
        (atStep 0x02 (.data b)).params.cmd.getSerial = 0x80 ∧
        Delivers .cfg (.data b) (atStep 0x02 (.data b))) ∧
      Delivers .cfg (.data [0x80]) (atStep 0x02 (.data [0x80])) ∧
      ([0x41, 0x42, 0x43, 0x44] : List Byte).length < (0x05 : Byte).toNat ∧
      (0x04 : Byte).toNat ≤ ([0x41, 0x42, 0x43, 0x44] : List Byte).length ∧
      (0x00 : Byte).toNat ≤ ([] : List Byte).length := by
  refine ⟨?_, delivers_of_delivered rfl, by decide, by decide, by decide⟩
  simp only [List.forall_mem_cons]
  exact ⟨⟨rfl, rfl, rfl, delivers_of_delivered rfl⟩, ⟨rfl, rfl, rfl, delivers_of_delivered rfl⟩,
    ⟨rfl, rfl, rfl, delivers_of_delivered rfl⟩, by simp⟩

/-- The variant `P_SERIAL_RESEND`, at the first and the fourth attempt. -/
theorem wit_SerialFetchRetries_resend :
    let s := sending [.sent] { atStep 0x02 .timeout with params := { profile with serialResend := true } }
    s.phase = .await .cfg .afterAwait ∧ s.seqStep = 0x02 ∧ Delivers .cfg .timeout s ∧
      s.params.serialResend = true ∧ txAnswer (s.receive .timeout) = .sent ∧
      (1 ≤ { s with att := 1 }.att.toNat ∧ { s with att := 1 }.att.toNat < 5) ∧
      (1 ≤ { s with att := 4 }.att.toNat ∧ { s with att := 4 }.att.toNat < 5) :=
  ⟨rfl, rfl, delivers_of_delivered rfl, rfl, rfl, by decide, by decide⟩

/-- The variant, the request sent again failing: from the first attempt on, once and at all four that are left. -/
theorem wit_SerialFetchRetries_resend_fails :
    let s := { atStep 0x02 .timeout with att := 1, params := { profile with serialResend := true } }
    s.params.serialResend = true ∧ 1 ≤ s.att.toNat ∧ s.att.toNat + 1 ≤ 5 ∧ s.att.toNat + 4 = 5 ∧
      (sending [.linkError, .sent] s).env.tx = List.replicate 1 .linkError ++ [.sent] ∧
      (sending [.linkError, .linkError, .linkError, .linkError] s).env.tx =
        List.replicate 4 .linkError ++ [] :=
  ⟨rfl, by decide, by decide, rfl, rfl, rfl⟩

theorem wit_SerialFetchRetries :
    (atStep 0x02 .timeout).params.serialResend = false ∧ (atStep 0x02 .timeout).seqStep = 0x02 ∧
      (∀ o ∈ [RxOutcome.timeout, .linkError, .data [0x81, 0x01]],
        (atStep 0x02 o).phase = .await .cfg .afterAwait ∧ Delivers .cfg o (atStep 0x02 o)) ∧
      (0x81 : Byte) ≠ (atStep 0x02 .timeout).params.cmd.getSerial ∧
      { atStep 0x02 .timeout with att := 4 }.att.toNat < 5 ∧
      5 ≤ { atStep 0x02 .timeout with att := 5 }.att.toNat := by
  refine ⟨rfl, rfl, ?_, by decide, by decide, by decide⟩
  simp only [List.forall_mem_cons]
  exact ⟨⟨rfl, delivers_of_delivered rfl⟩, ⟨rfl, delivers_of_delivered rfl⟩, ⟨rfl, delivers_of_delivered rfl⟩, by simp⟩

/-- Step 4 accepted, with the key flags and the lengths of the two keys. -/
def lockAccepted (flags wlen rlen : Byte) : State :=
  { sending [.sent] (atStep 0x04 (.data [0x83, 0x01])) with
    keyFlags := flags, wkeyLen := wlen, rkeyLen := rlen }

theorem wit_KeyAcquisition_fault :
    (let s := lockAccepted 0x01 31 32
     s.phase = .await .cfg .afterAwait ∧ s.seqStep = 0x04 ∧ Delivers .cfg (.data [0x83, 0x01]) s ∧
       s.keyFlags.getLsbD 0 = true ∧ s.wkeyLen ≠ 32) ∧
      (let s := lockAccepted 0x02 0 33
       s.keyFlags.getLsbD 0 = false ∧ s.keyFlags.getLsbD 1 = true ∧ s.rkeyLen ≠ 32) ∧
      (let s := lockAccepted 0x03 32 31
       s.keyFlags.getLsbD 0 = true ∧ s.wkeyLen = 32 ∧ s.keyFlags.getLsbD 1 = true ∧ s.rkeyLen ≠ 32) := by
  refine ⟨⟨rfl, rfl, delivers_of_delivered rfl, rfl, by decide⟩, ⟨rfl, rfl, by decide⟩,
    ⟨rfl, rfl, rfl, by decide⟩⟩

/-- A drawn key, every byte the same. -/
def draw (b : Byte) : Draw := Vector.replicate 32 b

theorem wit_KeyAcquisition_draws :
    let s := { lockAccepted 0x00 0 0 with
               env := { (lockAccepted 0x00 0 0).env with draws := [draw 1, draw 2] } }
    s.phase = .await .cfg .afterAwait ∧ s.seqStep = 0x04 ∧ Delivers .cfg (.data [0x83, 0x01]) s ∧
      (s.keyFlags.getLsbD 0 = true → s.wkeyLen = 32) ∧ (s.keyFlags.getLsbD 1 = true → s.rkeyLen = 32) ∧
      txAnswer (s.receive (.data [0x83, 0x01])) = .sent ∧ s.env.draws = draw 1 :: draw 2 :: [] :=
  ⟨rfl, rfl, delivers_of_delivered rfl, by decide, by decide, rfl, rfl⟩

theorem wit_AttestationKeyCheckedBeforeSending :
    let s := sending [.sent] (atStep 0x08 (.data [0x86, 0x01]))
    s.phase = .await .cfg .afterAwait ∧ s.seqStep = 0x08 ∧ Delivers .cfg (.data [0x86, 0x01]) s ∧
      { s with attkeyLen := 31 }.attkeyLen ≠ 32 ∧ { s with attkeyLen := 32 }.attkeyLen = 32 ∧
      txAnswer (s.receive (.data [0x86, 0x01])) = .sent :=
  ⟨rfl, rfl, delivers_of_delivered rfl, by decide, rfl, rfl⟩

/-- Step 9 accepted, the frame of step 11 sent: the step that emits the image. -/
theorem wit_PersistOnlyAfterStepNine :
    after (fun t => decide (t.outLog ≠ [])) (exec .configure
      (sending [.sent] (atStep 0x09 (.data [0x87, 0x01])))) = some true := by decide +kernel

/-- V-SEQ-10. -/
theorem wit_ConfigureFaultsHaltTheRun :
    (atStep 0x04 (.data [0x83, 0x00])).opl = 0x50 ∧
      (atStep 0x04 (.data [0x83, 0x00])).status.err = false ∧
      after (fun t => t.status.err) (exec .configure (atStep 0x04 (.data [0x83, 0x00]))) = some true := by
  decide +kernel

/-- The start of V-SEQ-17, with two draws, and a serial of four bytes. -/
theorem wit_ConfigureRunCompletes :
    let s := { running 0x50 (.ready .start) with
               attkeyLen := 32
               env := { tx := List.replicate 7 TxOutcome.sent ++ [], draws := draw 1 :: draw 2 :: [], opens := []
                        order := []
                        rx := [[0x81#8, 0x01], [0x80, 0x04, 0x41, 0x42, 0x43, 0x44], [0x83, 0x01],
                            [0x85, 0x01], [0x86, 0x01], [0x87, 0x01], [0x88, 0x01]].map
                          (fun b => TokenAnswer.deliver (.data b)) ++ [] } }
    s.phase = .ready .start ∧ s.opl = 0x50 ∧ s.status.opened = true ∧ s.params.serialResend = false ∧
      s.attkeyLen = 32 ∧ (s.keyFlags.getLsbD 0 = true → s.wkeyLen = 32) ∧
      (s.keyFlags.getLsbD 1 = true → s.rkeyLen = 32) ∧
      ([0x41, 0x42, 0x43, 0x44] : List Byte).length = (0x04 : Byte).toNat ∧
      s.params.cmd.getSerial = 0x80 ∧ s.env.tx = List.replicate 7 .sent ++ [] ∧
      s.env.draws = draw 1 :: draw 2 :: [] ∧
      s.env.rx = [0x81 :: 0x01 :: [], s.params.cmd.getSerial :: 0x04 :: ([0x41, 0x42, 0x43, 0x44] ++ []),
          0x83 :: 0x01 :: [], 0x85 :: 0x01 :: [], 0x86 :: 0x01 :: [], 0x87 :: 0x01 :: [],
          0x88 :: 0x01 :: []].map (fun b => TokenAnswer.deliver (.data b)) ++ [] := by
  refine ⟨rfl, rfl, rfl, rfl, rfl, by decide, by decide, rfl, rfl, rfl, rfl, rfl⟩

theorem wit_RngStreamTurns :
    ((running 0x60 (.ready .start)).phase = .ready .start ∧
        (running 0x60 (.ready .start)).status.opened = true) ∧
      (let s := running 0x60 (.ready .loopTop)
       s.phase = .ready .loopTop ∧ s.cancelReq = false ∧ s.params.longBcnt = false ∧
         txAnswer (sending [.sent] s) = .sent ∧ txAnswer (sending [.linkError] s) = .linkError) ∧
      (let s := hearing [.linkError] (waiting 0x60 .inf)
       s.phase = .await .inf .afterAwait ∧ Delivers .inf .linkError s) ∧
      (let b : List Byte := [0, 0, 0, 0, 0x21, 0, 0x20] ++ counting 32
       let s := hearing [.data b] (waiting 0x60 .inf)
       s.phase = .await .inf .afterAwait ∧ Delivers .inf (.data b) s ∧
         b[s.params.rngEchoOff.val]? = some s.params.cmd.rng ∧
         b[s.params.rngLenOff.val]? = some 0x20 ∧ s.params.rngDataOff.val + 32 ≤ b.length) ∧
      (let b : List Byte := [0, 0, 0, 0, 0x21, 0, 0x20] ++ counting 31
       let s := hearing [.data b] (waiting 0x60 .inf)
       Delivers .inf (.data b) s ∧ ¬ s.params.rngDataOff.val + 32 ≤ b.length) ∧
      NoDelivery .inf (quiet (waiting 0x60 .inf)) ∧ (quiet (waiting 0x60 .inf)).cancelReq = false := by
  refine ⟨⟨rfl, rfl⟩, ⟨rfl, rfl, rfl, rfl, rfl⟩, ⟨rfl, delivers_of_delivered rfl⟩,
    ⟨rfl, delivers_of_delivered rfl, rfl, rfl, by decide⟩, ⟨delivers_of_delivered rfl, by decide⟩,
    noDelivery_of_silent _ rfl, rfl⟩

theorem wit_SeedStreamTurns :
    ((running 0x61 (.ready .start)).phase = .ready .start ∧
        (running 0x61 (.ready .start)).status.opened = true) ∧
      ((running 0x61 (.ready .loopTop)).phase = .ready .loopTop ∧
        (running 0x61 (.ready .loopTop)).cancelReq = false) ∧
      (let s := running 0x61 (.input .afterInput)
       s.phase = .input .afterInput ∧ s.status.waitin = false ∧ s.cancelReq = false ∧ s.chunkN = 0) ∧
      (let s := { running 0x61 (.input .afterInput) with chunk := counting 20, chunkN := 20 }
       s.phase = .input .afterInput ∧ s.chunkN ≠ 0 ∧ s.chunk.length = s.chunkN.toNat ∧
         s.chunkN.toNat ≤ 20 ∧ s.params.longBcnt = false ∧ txAnswer (sending [.sent] s) = .sent ∧
         txAnswer (sending [.linkError] s) = .linkError) ∧
      (∀ o ∈ [RxOutcome.linkError, .data [0x22, 0x01], .data [0x22, 0x00], .data [0x22]],
        (hearing [o] (waiting 0x61 .inf)).phase = .await .inf .afterAwait ∧
          Delivers .inf o (hearing [o] (waiting 0x61 .inf))) ∧
      NoDelivery .inf (quiet (waiting 0x61 .inf)) ∧ (quiet (waiting 0x61 .inf)).cancelReq = false ∧
      (seedWaiting.phase = .input .afterInput ∧ seedWaiting.status.waitin = true ∧
        seedWaiting.cancelReq = false) ∧
      ([0x22, 0x01] : List Byte)[profile.seedOkOff.val]? = some 0x01 ∧
      ([0x22, 0x00] : List Byte)[profile.seedOkOff.val]? ≠ some 0x01 ∧
      ([0x22] : List Byte)[profile.seedOkOff.val]? ≠ some 0x01 := by
  refine ⟨⟨rfl, rfl⟩, ⟨rfl, rfl⟩, ⟨rfl, rfl, rfl, rfl⟩, by decide, ?_, noDelivery_of_silent _ rfl, rfl,
    ⟨rfl, rfl, rfl⟩, by decide, by decide, by decide⟩
  simp only [List.forall_mem_cons]
  exact ⟨⟨rfl, delivers_of_delivered rfl⟩, ⟨rfl, delivers_of_delivered rfl⟩, ⟨rfl, delivers_of_delivered rfl⟩,
    ⟨rfl, delivers_of_delivered rfl⟩, by simp⟩

theorem wit_StreamsEndAtACancel :
    (let s := { running 0x60 (.ready .loopTop) with cancelReq := true }
     s.cancelReq = true ∧ s.phase = .ready .loopTop) ∧
      (let s := quiet { waiting 0x60 .inf with cancelReq := true }
       s.cancelReq = true ∧ s.phase = .await .inf .afterAwait ∧ NoDelivery .inf s) ∧
      (let s := { seedWaiting with cancelReq := true }
       s.cancelReq = true ∧ s.phase = .input .afterInput ∧ s.status.waitin = true) := by
  refine ⟨⟨rfl, rfl⟩, ⟨rfl, rfl, noDelivery_of_silent _ rfl⟩, ⟨rfl, rfl, rfl⟩⟩

/-- A cancel pending and a chunk committed, in either order, at the ends of the chunk's range. -/
theorem wit_StreamsEndAtACancel_chunk :
    let s := fun (first : Bool) (n : Nat) =>
      { running 0x61 (.input .afterInput) with
        cancelReq := true, chunk := counting n, chunkN := BitVec.ofNat 8 n
        env := { Env.empty with order := [first], tx := [.sent] } }
    ∀ n ∈ [0, 1, 20],
      (s true n).cancelReq = true ∧ (s true n).phase = .input .afterInput ∧
        (s true n).status.waitin = false ∧ orderAnswer (s true n) = true ∧
        orderAnswer (s false n) = false ∧ (s false n).chunk.length = (s false n).chunkN.toNat ∧
        (s false n).chunkN.toNat ≤ 20 ∧ ((s false n).chunkN = 0 ↔ n = 0) ∧
        txAnswer (s false n).dropOrder = .sent := by decide

theorem wit_WipeWaitsForAResponse :
    (let s := running 0x62 (.ready .start)
     s.phase = .ready .start ∧ s.status.opened = true ∧ s.att = 0 ∧ s.params.longBcnt = false ∧
       txAnswer (sending [.sent] s) = .sent ∧ txAnswer (sending [.linkError] s) = .linkError) ∧
      ∀ o ∈ [RxOutcome.timeout, .linkError, .data [0x23, 0x01], .data [0x23]],
        (hearing [o] (waiting 0x62 .wipe)).phase = .await .wipe .afterAwait ∧
          Delivers .wipe o (hearing [o] (waiting 0x62 .wipe)) := by
  refine ⟨⟨rfl, rfl, rfl, rfl, rfl, rfl⟩, ?_⟩
  simp only [List.forall_mem_cons]
  exact ⟨⟨rfl, delivers_of_delivered rfl⟩, ⟨rfl, delivers_of_delivered rfl⟩, ⟨rfl, delivers_of_delivered rfl⟩,
    ⟨rfl, delivers_of_delivered rfl⟩, by simp⟩

/-- A silent TOKEN and a pending cancel: WIPE waits on. -/
theorem wit_WipeWaitsForAResponse_silent :
    let s := quiet { waiting 0x62 .wipe with cancelReq := true }
    s.phase = .await .wipe .afterAwait ∧ NoDelivery .wipe s ∧
      exec .wipe s = .next ({ s.receive .timeout with phase := .await .wipe .afterAwait }).countWipe :=
  ⟨rfl, noDelivery_of_silent _ rfl, rfl⟩

theorem wit_HostRegistersAreTheHosts :
    exec .nop fresh = .next fresh.finish ∧
      ∀ off ∈ [0x000#10, 0x003, 0x00D, 0x010, 0x011, 0x0C0, 0x0FF, 0x240, 0x25F, 0x320, 0x333, 0x340,
          0x37F],
        inRanges [(0x000, 4), (0x00D, 1), (0x010, 2), (0x0C0, 64), (0x240, 32), (0x320, 20), (0x340, 64)]
          off.toNat = true := ⟨rfl, by decide⟩

theorem wit_SessionOnlyByOpenAndClose :
    exec .nop opened = .next opened.finish ∧ Instr.nop ≠ .openDev ∧ Instr.nop ≠ .closeDev :=
  ⟨rfl, by decide, by decide⟩

theorem wit_ErrMeansAnEndedOperation :
    (running 0xFF (.ready .start)).status.err = false ∧
      step (running 0xFF (.ready .start)) = .next ((running 0xFF (.ready .start)).raise .illegalOp) ∧
      ((running 0xFF (.ready .start)).raise .illegalOp).status.err = true := ⟨rfl, rfl, rfl⟩

theorem wit_LogsOnlyGrow : step fresh = .next fresh ∧ fresh.sched.head? ≠ some .reset :=
  ⟨rfl, by decide⟩

/-- A state with a byte at each end of the buffers. -/
def marked : State := { fresh with mem := [(0x040, 0x01), (0x37F, 0xFF)] }

theorem wit_EveryStepKeepsTheMemory : MemoryInv marked ∧ step marked = .next marked := by
  refine ⟨⟨by decide, ?_⟩, rfl⟩
  intro c hc
  simp only [marked, List.mem_cons, List.not_mem_nil, or_false] at hc
  rcases hc with rfl | rfl <;> decide

/-- CONFIGURE in the await of step 4. -/
theorem wit_EveryStepKeepsTheFlow :
    FlowInv (atStep 0x04 (.data [0x83, 0x00])) ∧
      after (fun t => t.phase) (step (atStep 0x04 (.data [0x83, 0x00]))) = some .idle := by
  refine ⟨⟨⟨by decide, by decide, by decide⟩, ?_, (fun h => by cases h), rfl⟩, by decide +kernel⟩
  exact .inr (.inr (.inl ⟨rfl, rfl, by decide⟩))

theorem wit_EveryStepKeepsTheRanges : ValuesInv marked ∧ step marked = .next marked := by
  refine ⟨⟨⟨by decide, by decide, .inl rfl, .inl rfl, fun _ => rfl⟩,
    ⟨by decide, by decide, rfl, by decide, ?_, ?_⟩⟩, rfl⟩
  · intro e he; cases he
  · intro e he; cases he

/-- CONFIGURE in the await of step 4, the TOKEN silent and a cancel pending, with HOST accesses and a poll
before the CORE's turn. -/
theorem wit_FiniteWaitsReceiveAnOutcome :
    let s := quiet { atStep 0x04 .timeout with cancelReq := true, sched := [.hostRead 0x004 1, .wait] }
    FlowInv s ∧ (∀ m ∈ s.sched, moveIsAccess m = true ∧ m ≠ .reset) ∧
      s.phase = .await .cfg .afterAwait ∧ Timeout.cfg ≠ .inf ∧ NoDelivery .cfg s ∧
      s.seqStep ∈ awaitingSteps := by
  refine ⟨⟨⟨by decide, by decide, by decide⟩, ?_, (fun h => by cases h), rfl⟩, by decide, rfl, by decide,
    noDelivery_of_silent _ rfl, by decide⟩
  exact .inr (.inr (.inl ⟨rfl, rfl, by decide⟩))

theorem wit_RunsNeverStop :
    let s := { atStep 0x04 (.data [0x83, 0x00]) with sched := [.core, .hostRead 0x004 1, .wait] }
    FlowInv s ∧ ∀ m ∈ s.sched, moveIsAccess m = true := by
  refine ⟨⟨⟨by decide, by decide, by decide⟩, ?_, (fun h => by cases h), rfl⟩, by decide⟩
  exact .inr (.inr (.inl ⟨rfl, rfl, by decide⟩))

end Sys2Proof.Tests
end

/-! ## The text of bytes and the mask of the zero key (00_scope.md R9, 42_sha_kdf.md R128 to R133) -/

section
namespace Sys2Proof.Machine

/-- The sixteen lowercase hexadecimal digits in ASCII, in order of their value. -/
def hexDigits : List Byte :=
  [0x30, 0x31, 0x32, 0x33, 0x34, 0x35, 0x36, 0x37, 0x38, 0x39, 0x61, 0x62, 0x63, 0x64, 0x65, 0x66]

theorem hexDigits_getElem? : ∀ n < 16, hexDigits[n]? = some (hexDigit n) := by decide

theorem hexDigit_range : ∀ n < 16,
    (0x30 ≤ (hexDigit n).toNat ∧ (hexDigit n).toNat ≤ 0x39) ∨
      (0x61 ≤ (hexDigit n).toNat ∧ (hexDigit n).toNat ≤ 0x66) := by decide

theorem highNibble_lt (b : Byte) : b.toNat / 16 < 16 := by
  have := b.isLt
  omega

theorem lowNibble_lt (b : Byte) : b.toNat % 16 < 16 := Nat.mod_lt _ (by decide)

/-- A byte's two digits stand at twice its place in the text. -/
theorem hexText_getElem? {bs : List Byte} {i : Nat} {b : Byte} (h : bs[i]? = some b) :
    (hexText bs)[2 * i]? = some (hexDigit (b.toNat / 16)) ∧
      (hexText bs)[2 * i + 1]? = some (hexDigit (b.toNat % 16)) := by
  induction bs generalizing i with
  | nil => simp at h
  | cons c cs ih =>
    cases i with
    | zero =>
      obtain rfl : c = b := by simpa using h
      exact ⟨rfl, rfl⟩
    | succ j => exact ih (i := j) (by simpa using h)

theorem mem_hexText {bs : List Byte} {c : Byte} (h : c ∈ hexText bs) : ∃ n < 16, c = hexDigit n := by
  induction bs with
  | nil => cases h
  | cons b bs ih =>
    simp only [hexText, List.mem_cons] at h
    obtain rfl | rfl | htail := h
    · exact ⟨_, highNibble_lt b, rfl⟩
    · exact ⟨_, lowNibble_lt b, rfl⟩
    · exact ih htail

theorem hexText_mem_range {bs : List Byte} {c : Byte} (h : c ∈ hexText bs) :
    (0x30 ≤ c.toNat ∧ c.toNat ≤ 0x39) ∨ (0x61 ≤ c.toNat ∧ c.toNat ≤ 0x66) := by
  obtain ⟨n, hn, rfl⟩ := mem_hexText h
  exact hexDigit_range n hn

/-- Pass 1 over the zero key: the first 32 bytes of the mask the spec gives (42_sha_kdf.md R133). -/
def zeroKeyDigest1 : List Byte :=
  [0xbc, 0x09, 0x32, 0xea, 0xa5, 0xaf, 0xe6, 0x2a, 0x0f, 0x2a, 0x99, 0xe9, 0xbd, 0x6a, 0x7c, 0x7b,
   0x7a, 0x81, 0xc4, 0x46, 0xd4, 0xec, 0x24, 0xed, 0x8b, 0xf9, 0x28, 0x59, 0xfb, 0x07, 0xa7, 0xc1]

theorem digest1_zeroKey : digest1 (List.replicate 32 0x00) = zeroKeyDigest1 := by decide +kernel

theorem sha256_zeroKeyDigest1_take : (sha256 zeroKeyDigest1).take 4 = [0x87, 0xbb, 0x0a, 0xe2] := by
  decide +kernel

theorem deriveMask_zeroKey :
    deriveMask (List.replicate 32 0x00) = zeroKeyDigest1 ++ [0x87, 0xbb, 0x0a, 0xe2] := by
  rw [deriveMask, digest2, digest1_zeroKey, sha256_zeroKeyDigest1_take]

/-- Settles O26: the digits by induction on the bytes, the lengths from SHA-256's 32 bytes, and the mask of
the zero key by running the two passes, the second over the first one's digest. -/
theorem maskLengthsAndZeroKey : Obligations.MaskLengthsAndZeroKey := by
  refine ⟨fun bs i b hb => ?_, fun k => ⟨deriveMask_length k, ?_, fun c => hexText_mem_range⟩,
    deriveMask_zeroKey⟩
  · obtain ⟨hhigh, hlow⟩ := hexText_getElem? hb
    exact ⟨hhigh.trans (hexDigits_getElem? _ (highNibble_lt b)).symm,
      hlow.trans (hexDigits_getElem? _ (lowNibble_lt b)).symm⟩
  · rw [hexText_length, deriveMask_length]

end Sys2Proof.Machine
end

/-! ## What every step keeps, from what its parts keep (20_memory.md R70) -/

section
namespace Sys2Proof.Machine

/-- An invariant the shared operations keep is kept by a chain of them. -/
theorem Made.keeps_invariant {P : State → Prop} (hact : ∀ s t, P s → Act s t → P t) {s t : State}
    (h : Made s t) (hs : P s) : P t :=
  h.keeps (P := fun u v => P u → P v) (fun _ => id) (fun _ _ _ h1 h2 => h2 ∘ h1)
    (fun u v a hu => hact u v hu a) hs

/-- An operation keeps an invariant that the shared operations, the endings and the opening and closing of a
session keep. -/
theorem command_keeps {P : State → Prop} (hact : ∀ s t, P s → Act s t → P t)
    (hends : ∀ i s t, P s → Ends i s t → P t) (hopen : ∀ d s, P s → P (s.openSession d))
    (hclose : ∀ s, P s → P s.closeSession) {i : Instr} (hi : i.isCommand = true) {s t : State}
    (hs : P s) (h : exec i s = .next t) : P t := by
  by_cases ho : i = .openDev
  · subst ho
    rcases execOpen_cases h with ⟨u, hm, he⟩ | ⟨d, -, rfl⟩
    · exact hends _ _ _ (hm.keeps_invariant hact hs) he
    · exact hends .openDev _ _ (hopen d _ (hact _ _ hs .dropOpen)) .finish
  by_cases hc : i = .closeDev
  · subst hc
    cases (execClose_eq s).symm.trans h
    exact hends .closeDev _ _ (hclose s hs) .finish
  exact exec_keeps (P := fun u v => P u → P v) (fun _ => id) (fun _ _ _ h1 h2 => h2 ∘ h1)
    (fun u v a hu => hact u v hu a) (fun i u v e hu => hends i u v hu e) hi ho hc h hs

/-- A CORE step keeps an invariant that its parts keep. -/
theorem coreStep_keeps {P : State → Prop} (hact : ∀ s t, P s → Act s t → P t)
    (hends : ∀ i s t, P s → Ends i s t → P t) (hopen : ∀ d s, P s → P (s.openSession d))
    (hclose : ∀ s, P s → P s.closeSession) {s t : State} (hs : P s) (h : coreStep s = .next t) :
    P t := by
  rcases coreStep_cases h with ⟨-, rfl⟩ | ⟨-, he⟩
  · exact hs
  · exact command_keeps hact hends hopen hclose (isCommand_latched s) hs he

/-- A step of any agent keeps an invariant that the CORE's step, a HOST write and a reset keep, and that says
nothing of the schedule or of what the HOST has read. -/
theorem step_keeps {P : State → Prop}
    (hview : ∀ s q b, P s → P { s with sched := q, rdata := b })
    (hcore : ∀ s t, P s → coreStep s = .next t → P t)
    (hwrite : ∀ s off v, P s → P (s.writeByte off v)) {s t : State}
    (hreset : s.sched.head? = some .reset → P s.platformReset) (hs : P s) (h : step s = .next t) :
    P t := by
  have hpop : ∀ r, P { s with sched := r } := fun r => hview s r s.rdata hs
  rcases step_cases h with ⟨r, hc, -⟩ | ⟨off, r, -, rfl⟩ | ⟨off, v, r, -, rfl⟩ |
    ⟨again, m, r, -, -, -, rfl⟩ | ⟨r, hr, rfl⟩
  · exact hcore _ _ (hpop r) hc
  · exact hview s _ _ hs
  · exact hwrite _ off v (hpop r)
  · obtain ⟨q, e, -⟩ := pollStatus_eq again m { s with sched := r }
    rw [e]
    exact hview _ _ _ (hpop r)
  · exact hview s.platformReset r s.rdata (hreset (by simp [hr]))

/-! ### What a HOST write of a byte stores (20_memory.md R65) -/

/-- A write from 0x040 on is a write of a buffer. -/
theorem storeByte_buffer {a : Nat} (h : 0x040 ≤ a) (v : Byte) (s : State) :
    s.storeByte a v = { s with mem := Memory.write s.mem a v } := by
  unfold State.storeByte
  split
  case h_10 => rfl
  all_goals omega

theorem storeByte_mem_of_register {a : Nat} (h : a < 0x040) (h0 : a ≠ 0x000) (hrw : accessOf a = .rw)
    (v : Byte) (s : State) : (s.storeByte a v).mem = s.mem := by
  have := (accessOf_rw_iff a (by omega)).mp hrw
  unfold State.storeByte
  split
  case h_10 =>
    simp only [imp_false] at *
    omega
  all_goals rfl

end Sys2Proof.Machine
end

/-! ## The buffers stay canonical and inside their offsets (10_state.md R51) -/

section
namespace Sys2Proof.Machine

theorem MemoryInv.of_mem_eq {s t : State} (hs : MemoryInv s) (h : t.mem = s.mem) : MemoryInv t := by
  obtain ⟨hc, hb⟩ := hs
  exact ⟨by rw [h]; exact hc, by unfold BuffersOnly; rw [h]; exact hb⟩

/-- A run of bytes written inside a buffer keeps the invariant. -/
theorem MemoryInv.of_writeBytes {s t : State} (hs : MemoryInv s) {base : Nat} {bs : List Byte}
    (hfits : bufferFits base bs.length) (h : t.mem = Memory.writeBytes s.mem base bs) :
    MemoryInv t := by
  obtain ⟨hlow, hhigh, hmapped⟩ := hfits
  obtain ⟨hc, hb⟩ := hs
  refine ⟨by rw [h]; exact Memory.wf_writeBytes hc _ _, fun c hm => ?_⟩
  rw [h] at hm
  rcases Memory.mem_writeBytes hm with ⟨h1, h2⟩ | hm
  · exact ⟨by omega, by omega, hmapped _ h1 h2⟩
  · exact hb c hm

theorem bufferFits_of_coreBuffer {base n : Nat} (h : coreBuffer base n) : bufferFits base n := by
  unfold coreBuffer at h
  exact bufferFits_of (by omega)

theorem MemoryInv.act {s t : State} (hs : MemoryInv s) (a : Act s t) : MemoryInv t := by
  cases a with
  | transmit bs => exact hs.of_writeBytes (bufferFits_of (by simp [txBase])) rfl
  | receive lim o => exact hs.of_writeBytes (bufferFits_of (by simp [rxBase])) rfl
  | setBuf base bs hb => exact hs.of_writeBytes (bufferFits_of_coreBuffer hb) rfl
  | _ => exact hs.of_mem_eq rfl

theorem MemoryInv.ends {i : Instr} {s t : State} (hs : MemoryInv s) (e : Ends i s t) : MemoryInv t := by
  cases e <;> exact hs.of_mem_eq rfl

theorem MemoryInv.storeByte {s : State} (hs : MemoryInv s) {off : Offset} (h0 : off.toNat ≠ 0x000)
    (hrw : accessOf off.toNat = .rw) (v : Byte) : MemoryInv (s.storeByte off.toNat v) := by
  by_cases h : off.toNat < 0x040
  · exact hs.of_mem_eq (storeByte_mem_of_register h h0 hrw v s)
  · have := (accessOf_rw_iff off.toNat off.isLt).mp hrw
    rw [storeByte_buffer (by omega)]
    exact hs.of_writeBytes (base := off.toNat) (bs := [v]) (bufferFits_of (by simp; omega)) rfl

theorem MemoryInv.writeByte {s : State} (hs : MemoryInv s) (off : Offset) (v : Byte) :
    MemoryInv (s.writeByte off v) := by
  rcases writeByte_cases s off v with e | e | ⟨-, e⟩ | e | ⟨-, e⟩ | ⟨hrw, h0, -, e⟩ <;> rw [e]
  · exact hs
  · exact hs.of_mem_eq rfl
  · exact hs.of_mem_eq rfl
  · exact hs.of_mem_eq rfl
  · exact hs.of_mem_eq rfl
  · exact hs.storeByte h0 hrw v

theorem memoryInv_platformReset (s : State) : MemoryInv s.platformReset :=
  ⟨rfl, fun _ h => nomatch h⟩

/-- Settles O55: each shared operation writes inside one buffer or none, and so does a HOST write. -/
theorem everyStepKeepsTheMemory : Obligations.EveryStepKeepsTheMemory := fun _ _ hs h =>
  step_keeps (fun _ _ _ hs => hs.of_mem_eq rfl)
    (fun _ _ => coreStep_keeps (fun _ _ => MemoryInv.act) (fun _ _ _ => MemoryInv.ends)
      (fun _ _ hs => hs.of_mem_eq rfl) (fun _ hs => hs.of_mem_eq rfl))
    (fun _ off v hs => hs.writeByte off v) (fun _ => memoryInv_platformReset _) hs h

end Sys2Proof.Machine
end

/-! ## TEMPLATE and the logs (10_state.md R50, R56, R57) -/

section
namespace Sys2Proof.Machine

@[simp] theorem storeByte_params (a : Nat) (v : Byte) (s : State) :
    (s.storeByte a v).params = s.params := by
  unfold State.storeByte; split <;> rfl

@[simp] theorem storeByte_outLog (a : Nat) (v : Byte) (s : State) :
    (s.storeByte a v).outLog = s.outLog := by
  unfold State.storeByte; split <;> rfl

@[simp] theorem storeByte_linkLog (a : Nat) (v : Byte) (s : State) :
    (s.storeByte a v).linkLog = s.linkLog := by
  unfold State.storeByte; split <;> rfl

/-- A HOST write touches neither the parameters nor a log. -/
theorem writeByte_params_logs (s : State) (off : Offset) (v : Byte) :
    (s.writeByte off v).params = s.params ∧ (s.writeByte off v).outLog = s.outLog ∧
      (s.writeByte off v).linkLog = s.linkLog := by
  rcases writeByte_cases s off v with e | e | ⟨-, e⟩ | e | ⟨-, e⟩ | ⟨-, -, -, e⟩ <;> simp [e]

theorem Act.params_eq {s t : State} (a : Act s t) : t.params = s.params := by
  cases a <;> rfl

theorem Ends.params_eq {i : Instr} {s t : State} (e : Ends i s t) : t.params = s.params := by
  cases e <;> rfl

/-- No step of any agent changes the parameters (10_state.md R50). -/
theorem step_params {s t : State} (h : step s = .next t) : t.params = s.params :=
  step_keeps (P := fun u => u.params = s.params) (fun _ _ _ hu => hu)
    (fun _ _ => coreStep_keeps (fun _ _ hu a => a.params_eq.trans hu)
      (fun _ _ _ hu e => e.params_eq.trans hu) (fun _ _ hu => hu) (fun _ hu => hu))
    (fun u off v hu => (writeByte_params_logs u off v).1.trans hu) (fun _ => rfl) rfl h

/-- The HOST reads byte `i` of TEMPLATE at 0x380 + `i` (10_state.md R50). -/
theorem readByte_template_byte (s : State) (i : Fin 128) :
    s.readByte (BitVec.ofNat 10 (0x380 + i.val)) = s.params.template[i] := by
  have hoff : (BitVec.ofNat 10 (0x380 + i.val)).toNat = 0x380 + i.val := by
    rw [BitVec.toNat_ofNat, Nat.mod_eq_of_lt (by omega)]
  rw [readByte_template _ _ (by omega), hoff, Nat.add_sub_cancel_left, List.getD_eq_getElem _ _ (by simp)]
  simp

/-- Settles O14: the byte read is the parameter's, and no part of a step writes the parameters. -/
theorem templateNeverChanges : Obligations.TemplateNeverChanges :=
  ⟨readByte_template_byte, fun _ _ => step_params⟩

/-- Both logs of a state go on from those of another. -/
def LogsExtend (s t : State) : Prop := s.outLog <+: t.outLog ∧ s.linkLog <+: t.linkLog

theorem LogsExtend.refl (s : State) : LogsExtend s s := ⟨List.prefix_rfl, List.prefix_rfl⟩

theorem LogsExtend.trans {s t u : State} (h : LogsExtend s t) (h' : LogsExtend t u) : LogsExtend s u :=
  ⟨h.1.trans h'.1, h.2.trans h'.2⟩

theorem LogsExtend.of_eq {s t : State} (hout : t.outLog = s.outLog) (hlink : t.linkLog = s.linkLog) :
    LogsExtend s t := by
  unfold LogsExtend
  rw [hout, hlink]
  exact LogsExtend.refl s

/-- A shared operation appends to a log or leaves it. -/
theorem Act.logsExtend {s t : State} (a : Act s t) : LogsExtend s t := by
  cases a with
  | transmit | receive => exact ⟨List.prefix_rfl, List.prefix_append _ _⟩
  | emit | diag => exact ⟨List.prefix_append _ _, List.prefix_rfl⟩
  | _ => exact .of_eq rfl rfl

theorem Ends.logsExtend {i : Instr} {s t : State} (e : Ends i s t) : LogsExtend s t := by
  cases e <;> exact .of_eq rfl rfl

/-- Settles O54: a Transmit, a delivery, an emission and a diagnostic append one event, and nothing else but
a reset writes a log. -/
theorem logsOnlyGrow : Obligations.LogsOnlyGrow := fun s _ h hnoreset =>
  step_keeps (P := LogsExtend s) (fun _ _ _ hu => hu)
    (fun _ _ => coreStep_keeps (fun _ _ hu a => hu.trans a.logsExtend)
      (fun _ _ _ hu e => hu.trans e.logsExtend) (fun _ _ hu => hu) (fun _ hu => hu))
    (fun u off v hu =>
      let ⟨_, hout, hlink⟩ := writeByte_params_logs u off v
      hu.trans (.of_eq hout hlink))
    (fun hr => absurd hr hnoreset) (LogsExtend.refl s) h

end Sys2Proof.Machine
end

/-! ## What operations leave to the HOST (10_state.md R41, R45, R48, R52) -/

section
namespace Sys2Proof.Machine

/-- The buffers only the HOST writes: PAYLOAD, ATTKEY, SEED_CHUNK and FILTER (10_state.md R41, R45,
R48, R49). -/
def hostBuffers : List (Nat × Nat) := [(0x0C0, 64), (0x240, 32), (0x320, 20), (0x340, 64)]

/-- The latch, the registers and the buffers that no operation writes are unchanged. -/
structure KeepsHosts (s t : State) : Prop where
  latch : KeepsLatch s t
  opc : t.opc = s.opc
  argA : t.argA = s.argA
  argB : t.argB = s.argB
  argC : t.argC = s.argC
  keyFlags : t.keyFlags = s.keyFlags
  attkeyLen : t.attkeyLen = s.attkeyLen
  filterLen : t.filterLen = s.filterLen
  buffers : ∀ a, inRanges hostBuffers a = true → Memory.read t.mem a = Memory.read s.mem a

theorem KeepsHosts.refl (s : State) : KeepsHosts s s :=
  ⟨.refl s, rfl, rfl, rfl, rfl, rfl, rfl, rfl, fun _ _ => rfl⟩

theorem KeepsLatch.trans {s t u : State} (h : KeepsLatch s t) (h' : KeepsLatch t u) : KeepsLatch s u :=
  ⟨h'.opl.trans h.opl, h'.al.trans h.al, h'.bl.trans h.bl, h'.cl.trans h.cl, h'.chunk.trans h.chunk,
    h'.chunkN.trans h.chunkN, h'.params.trans h.params, h'.sched.trans h.sched, h'.rdata.trans h.rdata⟩

theorem KeepsHosts.trans {s t u : State} (h : KeepsHosts s t) (h' : KeepsHosts t u) : KeepsHosts s u :=
  ⟨h.latch.trans h'.latch, h'.opc.trans h.opc, h'.argA.trans h.argA, h'.argB.trans h.argB,
    h'.argC.trans h.argC, h'.keyFlags.trans h.keyFlags, h'.attkeyLen.trans h.attkeyLen,
    h'.filterLen.trans h.filterLen, fun a ha => (h'.buffers a ha).trans (h.buffers a ha)⟩

/-- The buffers of the HOST and those an operation writes lie apart: the link's below 0x0C0, the others as
`coreBuffer` says. -/
theorem read_writeBytes_hostBuffers (m : List Host.Cell) {base : Nat} {bs : List Byte}
    (h : base + bs.length ≤ 0x0C0 ∨ coreBuffer base bs.length) {a : Nat}
    (ha : inRanges hostBuffers a = true) :
    Memory.read (Memory.writeBytes m base bs) a = Memory.read m a := by
  simp [inRanges, hostBuffers] at ha
  unfold coreBuffer at h
  exact Memory.read_writeBytes_out m bs (by omega)

/-- A Transmit of whatever bytes, TXBUF taking 64 (43_transport.md R135). -/
theorem keepsHosts_transmit (bs : List Byte) (s : State) : KeepsHosts s (s.transmit bs) :=
  { KeepsHosts.refl s with
    latch := { KeepsLatch.refl s with }
    buffers := fun _ => read_writeBytes_hostBuffers _ (.inl (by simp [txBase])) }

theorem keepsHosts_receive (o : RxOutcome) (s : State) : KeepsHosts s (s.receive o) :=
  { KeepsHosts.refl s with
    latch := { KeepsLatch.refl s with }
    buffers := fun _ => read_writeBytes_hostBuffers _ (.inl (by simp [rxBase])) }

theorem keepsHosts_setBuf {base : Nat} {bs : List Byte} (h : coreBuffer base bs.length) (s : State) :
    KeepsHosts s (s.setBuf base bs) :=
  { KeepsHosts.refl s with
    latch := { KeepsLatch.refl s with }
    buffers := fun _ => read_writeBytes_hostBuffers _ (.inr h) }

theorem Act.keepsHosts {s t : State} (a : Act s t) : KeepsHosts s t := by
  cases a with
  | transmit bs => exact keepsHosts_transmit bs s
  | receive lim o => exact keepsHosts_receive o s
  | setBuf base bs hb => exact keepsHosts_setBuf hb s
  | _ => exact { KeepsHosts.refl s with latch := { KeepsLatch.refl s with } }

theorem Ends.keepsHosts {i : Instr} {s t : State} (e : Ends i s t) : KeepsHosts s t := by
  cases e <;> exact { KeepsHosts.refl s with latch := { KeepsLatch.refl s with } }

theorem keepsHosts_openSession (d : Token) (s : State) : KeepsHosts s (s.openSession d) :=
  { KeepsHosts.refl s with latch := { KeepsLatch.refl s with } }

theorem keepsHosts_closeSession (s : State) : KeepsHosts s s.closeSession :=
  { KeepsHosts.refl s with latch := { KeepsLatch.refl s with } }

/-- Every operation and every wire frame leaves what is the HOST's. -/
theorem exec_keepsHosts {i : Instr} {s t : State} (h : exec i s = .next t) : KeepsHosts s t := by
  cases hi : i.isCommand with
  | true =>
    exact command_keeps (P := KeepsHosts s) (fun _ _ hu a => hu.trans a.keepsHosts)
      (fun _ _ _ hu e => hu.trans e.keepsHosts) (fun d u hu => hu.trans (keepsHosts_openSession d u))
      (fun u hu => hu.trans (keepsHosts_closeSession u)) hi (.refl s) h
  | false =>
    cases (exec_wire hi s).symm.trans h
    exact keepsHosts_transmit _ s

/-- The offsets of the HOST's registers and buffers: of the registers, seven by name. -/
theorem hostOffset_cases {a : Nat}
    (h : inRanges [(0x000, 4), (0x00D, 1), (0x010, 2), (0x0C0, 64), (0x240, 32), (0x320, 20), (0x340, 64)]
      a = true) :
    (a = 0x000 ∨ a = 0x001 ∨ a = 0x002 ∨ a = 0x003 ∨ a = 0x00D ∨ a = 0x010 ∨ a = 0x011) ∨
      (0x040 ≤ a ∧ inRanges hostBuffers a = true) := by
  simp [inRanges, hostBuffers] at h ⊢
  omega

theorem KeepsHosts.readRegister {s t : State} (h : KeepsHosts s t) {a : Nat}
    (ha : a = 0x000 ∨ a = 0x001 ∨ a = 0x002 ∨ a = 0x003 ∨ a = 0x00D ∨ a = 0x010 ∨ a = 0x011) :
    readRegister t a = readRegister s a := by
  rcases ha with rfl | rfl | rfl | rfl | rfl | rfl | rfl
  · exact h.opc
  · exact h.argA
  · exact h.argB
  · exact h.argC
  · exact h.keyFlags
  · exact h.attkeyLen
  · exact h.filterLen

/-- Settles O51: no shared operation and no ending writes the HOST's registers or buffers, and a wire frame
is one Transmit. -/
theorem hostRegistersAreTheHosts : Obligations.HostRegistersAreTheHosts := by
  intro i s t h
  have hk := exec_keepsHosts h
  refine ⟨hk.latch, fun off hoff => ?_⟩
  rcases hostOffset_cases hoff with hreg | ⟨hbuf, hin⟩
  · rw [readByte_register _ _ (by omega), readByte_register _ _ (by omega)]
    exact hk.readRegister hreg
  · exact readByte_congr (fun hlow => absurd hlow (by omega)) (hk.buffers _ hin) hk.latch.params

end Sys2Proof.Machine
end

/-! ## The window as the HOST sees it (10_state.md R15 to R38, R51, 20_memory.md R61, R64, R65) -/

section
namespace Sys2Proof.Machine

theorem writeByte_of_ro {s : State} {off : Offset} (h : accessOf off.toNat = .ro) (v : Byte) :
    s.writeByte off v = s := by
  simp [State.writeByte, h]

theorem writeByte_of_reserved {s : State} {off : Offset} (h : accessOf off.toNat = .reserved) (v : Byte) :
    s.writeByte off v = s := by
  simp [State.writeByte, h]

/-- CTRL, SEED_IN and the reserved offsets after LAST_DIAG hold no register (10_state.md R15, R51). -/
theorem readRegister_unmapped (s : State) {a : Nat} (h : a = 0x008 ∨ a = 0x013 ∨ 0x025 ≤ a) :
    readRegister s a = 0x00 := by
  unfold readRegister
  split
  case h_36 => rfl
  all_goals omega

/-- A write to a read-only or a reserved offset changes nothing, OVR included (20_memory.md R64, R65). -/
theorem writeByte_ignored {off : Offset}
    (h : inRanges [(0x004, 4), (0x009, 3), (0x012, 1), (0x014, 44), (0x040, 128), (0x260, 192),
      (0x334, 12), (0x380, 128)] off.toNat = true) (s : State) (v : Byte) : s.writeByte off v = s := by
  simp [inRanges] at h
  have hrw := accessOf_rw_iff off.toNat off.isLt
  have hwo := accessOf_wo_iff off.toNat off.isLt
  by_cases hres : accessOf off.toNat = .reserved
  · exact writeByte_of_reserved hres v
  · exact writeByte_of_ro (accessOf_ro_of (mt hrw.mp (by omega)) (mt hwo.mp (by omega)) hres) v

/-- A write-only or a reserved offset reads 0x00 (20_memory.md R65, 10_state.md R51). -/
theorem readByte_unmapped {off : Offset}
    (h : inRanges [(0x008, 1), (0x013, 1), (0x025, 27), (0x284, 28), (0x2C4, 28), (0x334, 12)]
      off.toNat = true) (s : State) : s.readByte off = 0x00 := by
  simp [inRanges] at h
  by_cases hreg : off.toNat < 0x040
  · rw [readByte_register _ _ hreg]
    exact readRegister_unmapped s (by omega)
  · exact readByte_reserved _ _ (by omega) (by omega)
      ((accessOf_reserved_iff off.toNat off.isLt).mpr (by omega))

/-- Settles O12, by the access class of each offset. -/
theorem readOnlyAndReservedOffsets : Obligations.ReadOnlyAndReservedOffsets := fun s _ v =>
  ⟨fun h => writeByte_ignored h s v, fun h => readByte_unmapped h s⟩

/-- The bits of STATUS, BUSY being bit 0 (10_state.md R18). -/
theorem toByte_bits (st : Status) :
    st.toByte.getLsbD 0 = st.busy ∧ st.toByte.getLsbD 1 = st.done ∧ st.toByte.getLsbD 2 = st.err ∧
      st.toByte.getLsbD 3 = st.ovr ∧ st.toByte.getLsbD 4 = st.opened ∧ st.toByte.getLsbD 5 = st.outv ∧
      st.toByte.getLsbD 6 = st.tmo ∧ st.toByte.getLsbD 7 = st.waitin := by
  have hall : ∀ busy done err ovr opened outv tmo waitin : Bool,
      (Status.mk busy done err ovr opened outv tmo waitin).toByte =
        BitVec.ofBoolListLE [busy, done, err, ovr, opened, outv, tmo, waitin] := by
    decide +kernel
  obtain ⟨busy, done, err, ovr, opened, outv, tmo, waitin⟩ := st
  rw [hall]
  simp [BitVec.ofBoolListLE]

/-- The two bytes of a 16-bit register, high byte first, make it up (20_memory.md R61). -/
theorem byte16_append (x : Word16) : byte16 x 0 ++ byte16 x 1 = x :=
  (BitVec.extractLsb'_append_extractLsb'_eq_extractLsb' (x := x) (by decide)).trans (by simp)

/-- The four bytes of a 32-bit register, most significant first, make it up (20_memory.md R61). -/
theorem byte32_append (x : Word32) : byte32 x 0 ++ byte32 x 1 ++ byte32 x 2 ++ byte32 x 3 = x := by
  have h01 : byte32 x 0 ++ byte32 x 1 = x.extractLsb' 16 16 :=
    BitVec.extractLsb'_append_extractLsb'_eq_extractLsb' (x := x) (by decide)
  have h012 : x.extractLsb' 16 16 ++ byte32 x 2 = x.extractLsb' 8 24 :=
    BitVec.extractLsb'_append_extractLsb'_eq_extractLsb' (x := x) (by decide)
  have h0123 : x.extractLsb' 8 24 ++ byte32 x 3 = x.extractLsb' 0 32 :=
    BitVec.extractLsb'_append_extractLsb'_eq_extractLsb' (x := x) (by decide)
  rw [h01, h012, h0123, BitVec.extractLsb'_eq_self]

/-- Settles O13: each register is read at its offset by definition, STATUS bit by bit, and the bytes of
the wider registers make them up. -/
theorem windowShowsTheFields : Obligations.WindowShowsTheFields := by
  intro s
  obtain ⟨hbusy, hdone, herr, hovr, hopened, houtv, htmo, hwaitin⟩ := toByte_bits s.status
  exact ⟨hbusy, hdone, herr, hovr, hopened, houtv, htmo, hwaitin, rfl, rfl, rfl, rfl, rfl, rfl, rfl, rfl,
    rfl, rfl, rfl, rfl, rfl, rfl, rfl, rfl, rfl, rfl, byte16_append s.crcAcc, byte16_append s.crcOut,
    byte32_append s.seedCount, byte32_append s.rngCount, byte32_append s.diagCount⟩

end Sys2Proof.Machine
end

/-! ## The ranges of the registers and the lengths (10_state.md R19 to R38, R54 to R57, 20_memory.md R76) -/

section
namespace Sys2Proof.Machine

theorem mem_append_singleton {α : Type} {p : α → Prop} {l : List α} {e : α} (hl : ∀ x ∈ l, p x)
    (he : p e) : ∀ x ∈ l ++ [e], p x :=
  List.forall_mem_append.mpr ⟨hl, List.forall_mem_singleton.mpr he⟩

theorem resultOf_range (o : RxOutcome) : resultOf o = 0 ∨ resultOf o = 1 ∨ resultOf o = 2 := by
  cases o <;> simp [resultOf]

/-- A delivered outcome is an event of the link's sizes (20_memory.md R76). -/
theorem linkEventSized_of_delivered {lim : Timeout} {s : State} {o : RxOutcome}
    (h : delivered lim s = some o) : linkEventSized (.rx o) := by
  cases o with
  | data b => exact delivered_data h
  | timeout | linkError => trivial

theorem keyFlagsWritten_reserved (v : Byte) : keyFlagsWritten v &&& 0xFC = 0 := by
  rw [keyFlagsWritten, BitVec.and_assoc]
  exact BitVec.and_zero

theorem ValuesInv.act {s t : State} (hs : ValuesInv s) (a : Act s t) : ValuesInv t := by
  obtain ⟨hr, hl⟩ := hs
  cases a with
  | transmit bs h =>
    have hlen : (s.transmit bs).txLen.toNat ≤ 64 := by
      have := h hl.chunkMax
      rw [State.transmit_txLen, BitVec.toNat_ofNat]
      omega
    exact ⟨{ hr with }, { hl with
      txLen := hlen
      links := mem_append_singleton hl.links (pad64_length bs) }⟩
  | receive lim o h =>
    exact ⟨{ hr with result := resultOf_range o }, { hl with
      rxLen := rxLen_receive_le h
      links := mem_append_singleton hl.links (linkEventSized_of_delivered h) }⟩
  | emit e h => exact ⟨{ hr with }, { hl with outs := mem_append_singleton hl.outs h }⟩
  | diag e h =>
    have hcode : e.code = 0x03 ∨ e.code = 0x14 := h.imp (congrArg ErrName.code) (congrArg ErrName.code)
    exact ⟨{ hr with lastDiag := .inr hcode }, { hl with outs := mem_append_singleton hl.outs trivial }⟩
  | enterStep k h => exact ⟨{ hr with seqStep := h }, { hl with }⟩
  | beginConfigure => exact ⟨{ hr with seqStep := Nat.zero_le 11 }, { hl with }⟩
  | setResult r h => exact ⟨{ hr with result := h.imp_right .inl }, { hl with }⟩
  | _ => exact ⟨{ hr with }, { hl with }⟩

/-- An ending writes ERR_CODE only with ERR. -/
theorem ValuesInv.ends {i : Instr} {s t : State} (hs : ValuesInv s) (e : Ends i s t) : ValuesInv t := by
  obtain ⟨hr, hl⟩ := hs
  cases e with
  | raise e => exact ⟨{ hr with errCode := fun h => nomatch h }, { hl with }⟩
  | _ => exact ⟨{ hr with }, { hl with }⟩

/-- A stored byte touches no value of the invariant but KEYFLAGS, whose reserved bits it leaves 0
(10_state.md R27). -/
theorem ValuesInv.storeByte {s : State} (hs : ValuesInv s) (a : Nat) (v : Byte) :
    ValuesInv (s.storeByte a v) := by
  obtain ⟨hr, hl⟩ := hs
  unfold State.storeByte
  split
  case h_5 => exact ⟨{ hr with keyFlags := keyFlagsWritten_reserved v }, { hl with }⟩
  all_goals exact ⟨{ hr with }, { hl with }⟩

/-- A commit is accepted of at most 20 bytes, where SEED_STREAM waits for one (45_supplementary.md R165). -/
theorem seedInAccepts_iff (n : Byte) (s : State) :
    seedInAccepts n s = true ↔
      s.status.busy = true ∧ s.opl = opcSeedStream ∧ s.status.waitin = true ∧ n.toNat ≤ 20 := by
  simp [seedInAccepts, and_assoc]

theorem ValuesInv.writeByte {s : State} (hs : ValuesInv s) (off : Offset) (v : Byte) :
    ValuesInv (s.writeByte off v) := by
  have ⟨hr, hl⟩ := hs
  rcases writeByte_cases s off v with e | e | ⟨-, e⟩ | e | ⟨hacc, e⟩ | ⟨-, -, -, e⟩ <;> rw [e]
  · exact hs
  · exact ⟨{ hr with }, { hl with }⟩
  · exact ⟨{ hr with errCode := fun _ => rfl }, { hl with }⟩
  · exact ⟨{ hr with }, { hl with }⟩
  · obtain ⟨-, -, -, hn⟩ := (seedInAccepts_iff v s).mp hacc
    exact ⟨{ hr with }, { hl with chunk := buf_length s chunkBase v.toNat, chunkMax := hn }⟩
  · exact hs.storeByte off.toNat v

theorem valuesInv_platformReset (s : State) : ValuesInv s.platformReset where
  registers := ⟨Nat.zero_le 11, BitVec.zero_and, .inl rfl, .inl rfl, fun _ => rfl⟩
  lengths := ⟨Nat.zero_le 64, Nat.zero_le 64, rfl, Nat.zero_le 20, List.forall_mem_nil _,
    List.forall_mem_nil _⟩

/-- Settles O57: each shared operation, each ending and each HOST write puts a value of its range where it
writes one. -/
theorem everyStepKeepsTheRanges : Obligations.EveryStepKeepsTheRanges := fun _ _ hs h =>
  step_keeps (fun _ _ _ ⟨hr, hl⟩ => ⟨{ hr with }, { hl with }⟩)
    (fun _ _ => coreStep_keeps (fun _ _ => ValuesInv.act) (fun _ _ _ => ValuesInv.ends)
      (fun _ _ ⟨hr, hl⟩ => ⟨{ hr with }, { hl with }⟩)
      (fun _ ⟨hr, hl⟩ => ⟨{ hr with }, { hl with }⟩))
    (fun _ off v hs => hs.writeByte off v) (fun _ => valuesInv_platformReset _) hs h

end Sys2Proof.Machine
end

/-! ## The relations among STATUS, PH, the latch and the session (10_state.md R18, R53, R55) -/

section
namespace Sys2Proof.Machine

/-! ### The latch and the operation it holds (30_encoding.md R77, R80) -/

/-- The first byte of an operation's encoding is the OPC value that selects it. -/
theorem encode_decodeWord_head (p : Params) (op a b c : Byte) :
    (encode p (decodeWord op a b c)).head? = some op := by
  unfold decodeWord
  split
  case h_20 => rfl
  all_goals
    next hop => exact congrArg some (BitVec.eq_of_toNat_eq hop.symm)

theorem opl_of_latched {s : State} {i : Instr} {op : Byte} (hi : latched s = i)
    (hop : (encode s.params i).head? = some op) : s.opl = op := by
  have := encode_decodeWord_head s.params s.opl s.al s.bl s.cl
  rw [show decodeWord s.opl s.al s.bl s.cl = i from hi, hop] at this
  exact (Option.some.inj this).symm

theorem latched_of_keepsLatch {s t : State} (h : KeepsLatch s t) : latched t = latched s := by
  unfold latched
  rw [h.opl, h.al, h.bl, h.cl]

/-- A wait the latched operation enters is a position of its pseudocode (10_state.md R53). -/
theorem phaseOfOperation_awaitFor {s : State} {lim : Timeout} (h : waitsIn (latched s) lim s.seqStep) :
    PhaseOfOperation (s.awaitFor lim) := by
  rcases h with ⟨a, hi, hlim⟩ | ⟨n, hi, hlim⟩ | ⟨hi, hlim, hstep⟩ | ⟨hi, hlim⟩ | ⟨hi, hlim⟩ |
    ⟨hi, hlim⟩
  · exact .inl ⟨opl_of_latched hi rfl, hlim⟩
  · exact .inr (.inl ⟨opl_of_latched hi rfl, hlim⟩)
  · exact .inr (.inr (.inl ⟨opl_of_latched hi rfl, hlim, hstep⟩))
  · exact .inr (.inr (.inr (.inl ⟨opl_of_latched hi rfl, hlim⟩)))
  · exact .inr (.inr (.inr (.inr (.inl ⟨opl_of_latched hi rfl, hlim⟩))))
  · exact .inr (.inr (.inr (.inr (.inr ⟨opl_of_latched hi rfl, hlim⟩))))

/-! ### The CORE's step -/

/-- An operation runs and waits for no chunk: what holds of a state all through such a CORE step, whatever
PH. -/
structure Running (s : State) : Prop where
  busy : s.status.busy = true
  done : s.status.done = false
  err : s.status.err = false
  waitin : s.status.waitin = false
  session : SessionAgrees s

theorem Running.act {s t : State} (hs : Running s) (a : Act s t) : Running t := by
  cases a <;> exact { hs with }

theorem FlowInv.running {s : State} (hs : FlowInv s) (hphase : s.phase ≠ .idle)
    (hwaitin : s.status.waitin = false) : Running s := by
  have hbusy := hs.status.busyPhase.mpr hphase
  have hdone := hs.status.busyDone hbusy
  refine ⟨hbusy, hdone, ?_, hwaitin, hs.session⟩
  cases herr : s.status.err with
  | false => rfl
  | true => exact absurd (hs.status.errDone herr) (by simp [hdone])

theorem flowInv_finish {s : State} (hs : SessionAgrees s) : FlowInv s.finish where
  status := ⟨by simp [Status.onEnd], by simp [Status.onEnd], by simp [Status.onEnd]⟩
  phase := trivial
  waitin := by simp [WaitinAgrees, Status.onEnd]
  session := hs

theorem flowInv_raise (e : ErrName) {s : State} (hs : SessionAgrees s) : FlowInv (s.raise e) where
  status := ⟨by simp [Status.onFault], by simp [Status.onFault], by simp [Status.onFault]⟩
  phase := trivial
  waitin := by simp [WaitinAgrees, Status.onFault]
  session := hs

/-- A running operation's STATUS agrees with every phase but IDLE. -/
theorem Running.statusAgrees {s t : State} (hs : Running s) (hbusy : t.status.busy = s.status.busy)
    (hdone : t.status.done = s.status.done) (herr : t.status.err = s.status.err) (hphase : t.phase ≠ .idle) :
    StatusAgrees t where
  busyPhase := by simp [hbusy, hs.busy, hphase]
  busyDone := fun _ => hdone.trans hs.done
  errDone := fun h => nomatch (herr.trans hs.err).symm.trans h

/-- Each ending of a running operation leaves PH at a position of that operation, or IDLE. -/
theorem Running.ends {s t : State} (hs : Running s) (h : Ends (latched s) s t) : FlowInv t := by
  cases h with
  | finish => exact flowInv_finish hs.session
  | raise e => exact flowInv_raise e hs.session
  | awaitFor lim hwaits =>
    exact ⟨hs.statusAgrees rfl rfl rfl (by simp), phaseOfOperation_awaitFor hwaits,
      (fun h => nomatch hs.waitin.symm.trans h), hs.session⟩
  | loopTop hi =>
    exact ⟨hs.statusAgrees rfl rfl rfl (by simp),
      hi.imp (fun hi => opl_of_latched hi rfl) (fun hi => opl_of_latched hi rfl),
      (fun h => nomatch hs.waitin.symm.trans h), hs.session⟩
  | waitForInput hi =>
    exact ⟨hs.statusAgrees rfl rfl rfl (by simp), opl_of_latched hi rfl, fun _ => rfl, hs.session⟩

theorem Running.turn {s t : State} (hs : Running s) (h : Turn (latched s) s t) : FlowInv t := by
  obtain ⟨u, hmade, hends⟩ := h
  have hlatch : KeepsHosts s u := hmade.keeps .refl (fun _ _ _ => .trans) (fun _ _ => Act.keepsHosts)
  rw [← latched_of_keepsLatch hlatch.latch] at hends
  exact (hmade.keeps_invariant (fun _ _ => Running.act) hs).ends hends

theorem FlowInv.keepWaiting {s : State} (hs : FlowInv s) : FlowInv s.keepWaiting :=
  ⟨{ hs.status with }, hs.phase, hs.waitin, hs.session⟩

/-- A step of an operation that waits for no chunk. -/
theorem FlowInv.exec_running {s t : State} (hs : FlowInv s) (hphase : s.phase ≠ .idle)
    (hwaitin : s.status.waitin = false) (h : exec (latched s) s = .next t) : FlowInv t := by
  have hrun := hs.running hphase hwaitin
  by_cases ho : latched s = .openDev
  · rcases execOpen_cases (ho ▸ h) with hturn | ⟨d, -, rfl⟩
    · exact hrun.turn (ho ▸ hturn)
    · exact flowInv_finish rfl
  by_cases hc : latched s = .closeDev
  · rw [hc, execClose_eq] at h
    cases h
    exact flowInv_finish rfl
  rcases turn_exec (isCommand_latched s) ho hc h with hturn | rfl | rfl
  · exact hrun.turn hturn
  · exact hs.keepWaiting
  · exact hs

/-- While WAITIN is 1 SEED_STREAM waits on, or a pending cancel ends it (45_supplementary.md R161, R164). -/
theorem seedInput_waiting {s : State} (h : s.status.waitin = true) :
    seedInput s = s ∨ seedInput s = seedCancel s := by
  unfold seedInput
  rw [h]
  cases s.cancelReq with
  | false => exact .inl rfl
  | true => exact .inr rfl

/-- WAITIN is 1 in SEED_STREAM's input wait only (10_state.md R18). -/
theorem FlowInv.latched_of_waitin {s : State} (hs : FlowInv s) (h : s.status.waitin = true) :
    latched s = .seedStream ∧ s.phase = .input .afterInput := by
  have hphase := hs.waitin h
  have hopl : s.opl = 0x61 := by
    have := hs.phase
    unfold PhaseOfOperation at this
    rwa [hphase] at this
  exact ⟨by unfold latched; rw [hopl]; rfl, hphase⟩

/-- A step of SEED_STREAM while it waits for a chunk. -/
theorem FlowInv.exec_waiting {s t : State} (hs : FlowInv s) (hwaitin : s.status.waitin = true)
    (h : exec (latched s) s = .next t) : FlowInv t := by
  obtain ⟨hi, hphase⟩ := hs.latched_of_waitin hwaitin
  have hinput : exec .seedStream s = .next (seedInput s) := by
    simp only [exec, execSeedStream, hphase]
  rw [hi, hinput] at h
  cases h
  rcases seedInput_waiting hwaitin with e | e <;> rw [e]
  · exact hs
  · exact flowInv_finish hs.session

theorem FlowInv.coreStep {s t : State} (hs : FlowInv s) (h : coreStep s = .next t) : FlowInv t := by
  rcases coreStep_cases h with ⟨-, rfl⟩ | ⟨hphase, he⟩
  · exact hs
  cases hwaitin : s.status.waitin with
  | false => exact hs.exec_running hphase hwaitin he
  | true => exact hs.exec_waiting hwaitin he

/-! ### The HOST's writes and the reset -/

/-- An issue comes only where no operation runs, so WAITIN is 0 (40_control.md R106). -/
theorem FlowInv.issue {s : State} (hs : FlowInv s) (hbusy : s.status.busy = false) (v : Byte) :
    FlowInv (s.issue v) where
  status := ⟨by simp [Status.onIssue], by simp [Status.onIssue], by simp [Status.onIssue]⟩
  phase := trivial
  waitin := fun h => by
    have : s.status.busy = true := hs.status.busyPhase.mpr (by rw [hs.waitin h]; simp)
    simp [hbusy] at this
  session := hs.session

theorem FlowInv.storeByte {s : State} (hs : FlowInv s) (a : Nat) (v : Byte) : FlowInv (s.storeByte a v) := by
  unfold State.storeByte
  split <;> exact ⟨{ hs.status with }, hs.phase, hs.waitin, hs.session⟩

theorem FlowInv.writeByte {s : State} (hs : FlowInv s) (off : Offset) (v : Byte) :
    FlowInv (s.writeByte off v) := by
  rcases writeByte_cases s off v with e | e | ⟨hbusy, e⟩ | e | ⟨-, e⟩ | ⟨-, -, -, e⟩ <;> rw [e]
  · exact hs
  · exact ⟨{ hs.status with }, hs.phase, hs.waitin, hs.session⟩
  · exact hs.issue hbusy v
  · exact ⟨{ hs.status with }, hs.phase, hs.waitin, hs.session⟩
  · exact ⟨{ hs.status with }, hs.phase, (fun h => nomatch h), hs.session⟩
  · exact hs.storeByte off.toNat v

theorem flowInv_platformReset (s : State) : FlowInv s.platformReset where
  status := ⟨by simp [State.platformReset, State.reset, Status.zero], (fun h => nomatch h),
    (fun h => nomatch h)⟩
  phase := trivial
  waitin := fun h => nomatch h
  session := rfl

/-- Settles O56: a running operation ends its step at a position of its own or with BUSY and PH together
cleared, and a HOST write issues only from IDLE. -/
theorem everyStepKeepsTheFlow : Obligations.EveryStepKeepsTheFlow := fun _ _ hs h =>
  step_keeps (fun _ _ _ hs => ⟨{ hs.status with }, hs.phase, hs.waitin, hs.session⟩)
    (fun _ _ hs => hs.coreStep) (fun _ off v hs => hs.writeByte off v)
    (fun _ => flowInv_platformReset _) hs h

end Sys2Proof.Machine
end

/-! ## Equal canonical memories (assumption 14) -/

section
namespace Sys2Proof.Machine

/-- A byte that does not read as an unlisted one is listed, whatever the list's form. -/
theorem Memory.mem_of_read {m : List Host.Cell} {a : Nat} {v : Byte} (hread : Memory.read m a = v)
    (hv : v ≠ Memory.unlisted) : (a, v) ∈ m := by
  induction m with
  | nil => exact absurd hread.symm hv
  | cons d r ih =>
    obtain ⟨b, w⟩ := d
    by_cases hab : a = b
    · obtain rfl : w = v := by simpa [Memory.read, hab] using hread
      simp [hab]
    · simp only [Memory.read, if_neg hab] at hread
      exact List.mem_cons_of_mem _ (ih hread)

/-- What a canonical list holds is what it reads as, so the reads decide the entries. -/
theorem Memory.mem_iff_read {m : List Host.Cell} (h : Memory.wf m = true) (c : Host.Cell) :
    c ∈ m ↔ Memory.read m c.1 = c.2 ∧ c.2 ≠ Memory.unlisted :=
  ⟨fun hc => ⟨Memory.read_of_mem h hc, ((Memory.wf_iff m).mp h).2 c hc⟩,
    fun ⟨hread, hv⟩ => Memory.mem_of_read hread hv⟩

/-- Settles O18: memories that read alike hold the same entries, and addresses that rise strictly leave one
order for them. -/
theorem canonicalMemoriesAreEqual : Obligations.CanonicalMemoriesAreEqual := by
  intro m n hm hn hread
  obtain ⟨hrisem, -⟩ := (Memory.wf_iff m).mp hm
  obtain ⟨hrisen, -⟩ := (Memory.wf_iff n).mp hn
  have hsame : ∀ c, c ∈ m ↔ c ∈ n := fun c => by
    rw [Memory.mem_iff_read hm, Memory.mem_iff_read hn, hread]
  have : Std.Asymm fun c d : Host.Cell => c.1 < d.1 := ⟨fun _ _ => Nat.lt_asymm⟩
  exact hrisem.eq_of_mem_iff hrisen hsame

end Sys2Proof.Machine
end

/-! ## HOST accesses and writes (20_memory.md R62 to R66, R70) -/

section
namespace Sys2Proof.Machine

/-! ### The access -/

theorem step_of_sched {s : State} {m : Move} {rest : List Move} (h : s.sched = m :: rest) :
    step s = moveStep m { s with sched := rest } := by
  unfold step systemStep
  rw [h]

theorem hostRead_refused {n : Nat} (h : n ≠ 1) (off : Offset) (s : State) :
    hostRead off n s = .refused (.accessWidth n) := if_neg h

theorem hostWrite_refused {vs : List Byte} (h : vs.length ≠ 1) (off : Offset) (s : State) :
    hostWrite off vs s = .refused (.accessWidth vs.length) := by
  match vs with
  | [] => rfl
  | [_] => exact absurd rfl h
  | _ :: _ :: _ => rfl

/-- Settles O9: the schedule's first move is the access, and each access decides on its width alone. -/
theorem hostAccessesAreSingleBytes : Obligations.HostAccessesAreSingleBytes := fun _ off _ =>
  ⟨step_of_sched, fun _ => step_of_sched,
    fun _ hn hs => (step_of_sched hs).trans (hostRead_refused hn off _),
    fun _ hlen hs => (step_of_sched hs).trans (hostWrite_refused hlen off _)⟩

/-! ### Which writes are dropped and which are stored -/

/-- A write of a RW byte other than SEED_CHUNK's is dropped while an operation runs, OPC's included
(20_memory.md R64, 40_control.md R106). -/
theorem writeByte_dropped {s : State} {off : Offset} (hrw : accessOf off.toNat = .rw)
    (hbusy : s.status.busy = true) (htime : anyTime off.toNat = false) (v : Byte) :
    s.writeByte off v = s.setOvr := by
  simp [State.writeByte, writeOpc, hrw, hbusy, htime]

/-- A write of a RW byte other than OPC is stored where no operation runs, or where the byte takes a write
at any time (20_memory.md R64). -/
theorem writeByte_stored {s : State} {off : Offset} (hrw : accessOf off.toNat = .rw)
    (h0 : off.toNat ≠ 0x000) (htake : s.status.busy = false ∨ anyTime off.toNat = true) (v : Byte) :
    s.writeByte off v = s.storeByte off.toNat v := by
  rcases htake with h | h <;> simp [State.writeByte, hrw, h0, h]

theorem anyTime_iff (a : Nat) : anyTime a = true ↔ 0x320 ≤ a ∧ a < 0x334 := by
  simp only [anyTime, Bool.and_eq_true, decide_eq_true_eq]
  exact Iff.rfl

/-- Settles O10: each offset of the ranges is RW and lies outside SEED_CHUNK. -/
theorem busyWritesAreDropped : Obligations.BusyWritesAreDropped := by
  intro s off v hbusy hoff
  simp [inRanges] at hoff
  have hrw : accessOf off.toNat = .rw := (accessOf_rw_iff _ off.isLt).mpr (by omega)
  have htime : anyTime off.toNat = false := Bool.eq_false_iff.mpr (mt (anyTime_iff _).mp (by omega))
  exact writeByte_dropped hrw hbusy htime v

/-! ### What a stored byte changes and leaves -/

@[simp] theorem storeByte_status (a : Nat) (v : Byte) (s : State) :
    (s.storeByte a v).status = s.status := by
  unfold State.storeByte; split <;> rfl

@[simp] theorem storeByte_phase (a : Nat) (v : Byte) (s : State) :
    (s.storeByte a v).phase = s.phase := by
  unfold State.storeByte; split <;> rfl

@[simp] theorem storeByte_att (a : Nat) (v : Byte) (s : State) : (s.storeByte a v).att = s.att := by
  unfold State.storeByte; split <;> rfl

theorem storeByte_keepsInternals (a : Nat) (v : Byte) (s : State) :
    KeepsInternals s (s.storeByte a v) := by
  unfold State.storeByte
  split <;> exact ⟨{ KeepsLatch.refl s with }, { KeepsLogs.refl s with }, rfl, rfl⟩

theorem read_storeByte_other {a x : Nat} (h : x ≠ a) (v : Byte) (s : State) :
    Memory.read (s.storeByte a v).mem x = Memory.read s.mem x := by
  unfold State.storeByte
  split
  case h_10 => exact Memory.read_write_other s.mem v h
  all_goals rfl

theorem readRegister_storeByte_other {a x : Nat} (h : x ≠ a) (v : Byte) (s : State) :
    readRegister (s.storeByte a v) x = readRegister s x := by
  unfold State.storeByte
  split
  case h_10 => rfl
  all_goals
    unfold readRegister
    split <;> first | rfl | exact absurd rfl h

/-- A stored byte is the only byte of the window that changes (20_memory.md R65). -/
theorem sameWindowBut_storeByte (a : Nat) (v : Byte) (s : State) :
    SameWindowBut [(a, 1)] s (s.storeByte a v) := by
  have hne : ∀ x, inRanges [(a, 1)] x = false → x ≠ a := fun x hx e => by
    simp [inRanges, e] at hx
  exact sameWindowBut_of (storeByte_params a v s)
    (fun x _ hx => readRegister_storeByte_other (hne x hx) v s)
    (fun x _ _ hx => read_storeByte_other (hne x hx) v s)

/-- A RW register but OPC reads back the byte stored in it, KEYFLAGS without its reserved bits (10_state.md
R17, R26 to R30). -/
theorem readRegister_storeByte_same {a : Nat} (h : inRanges [(0x001, 3), (0x00C, 6)] a = true) (v : Byte)
    (s : State) :
    readRegister (s.storeByte a v) a = if a = 0x00D then keyFlagsWritten v else v := by
  simp [inRanges] at h
  obtain rfl | rfl | rfl | rfl | rfl | rfl | rfl | rfl | rfl :
      a = 0x001 ∨ a = 0x002 ∨ a = 0x003 ∨ a = 0x00C ∨ a = 0x00D ∨ a = 0x00E ∨ a = 0x00F ∨ a = 0x010 ∨
        a = 0x011 := by omega
  all_goals rfl

/-- A byte stored at a RW offset but OPC's reads back, from its register or its buffer (20_memory.md R65,
10_state.md R27). -/
theorem readByte_storeByte_same {off : Offset} (hrw : accessOf off.toNat = .rw) (h0 : off.toNat ≠ 0x000)
    (v : Byte) (s : State) :
    (s.storeByte off.toNat v).readByte off = if off = 0x00D then v &&& 0x03 else v := by
  have hoff := (accessOf_rw_iff _ off.isLt).mp hrw
  have hkey : off = 0x00D ↔ off.toNat = 0x00D := by simp [BitVec.toNat_eq]
  simp only [hkey]
  by_cases hreg : off.toNat < 0x040
  · rw [readByte_register _ _ hreg]
    exact readRegister_storeByte_same (by simp [inRanges]; omega) v s
  · rw [readByte_buffer _ _ (by omega) (by omega) (by rw [hrw]; nofun), storeByte_buffer (by omega),
      Memory.read_write_same, if_neg (by omega)]

/-- Settles O11: such a write is a store, and a store changes its own byte of the window only. -/
theorem acceptedWritesAreStored : Obligations.AcceptedWritesAreStored := by
  intro s off v h
  have hplace : accessOf off.toNat = .rw ∧ off.toNat ≠ 0x000 ∧
      (s.status.busy = false ∨ anyTime off.toNat = true) := by
    simp [inRanges] at h
    exact ⟨(accessOf_rw_iff _ off.isLt).mpr (by omega), by omega,
      h.imp And.left (fun hchunk => (anyTime_iff _).mpr (by omega))⟩
  obtain ⟨hrw, h0, htake⟩ := hplace
  rw [writeByte_stored hrw h0 htake]
  exact ⟨readByte_storeByte_same hrw h0 v s, sameWindowBut_storeByte _ v s,
    storeByte_keepsInternals _ v s, storeByte_status _ v s, storeByte_phase _ v s, storeByte_att _ v s⟩

end Sys2Proof.Machine
end

/-! ## The decoders and the encoder (30_encoding.md R77 to R104) -/

section
namespace Sys2Proof

/-! ### Round trips -/

/-- The round trip of every instruction, one lemma for each constructor. -/
theorem Laws.RoundTrip.statement : (i : Instr) → Laws.RoundTrip.Statement i
  | .nop => nop
  | .crcInit => crcInit
  | .crcByte b => crcByte b
  | .crcFinal => crcFinal
  | .crcBlob => crcBlob
  | .kdf readKey => kdf readKey
  | .patch => patch
  | .openDev => openDev
  | .closeDev => closeDev
  | .send form cmd len => send form cmd len
  | .recv sel => recv sel
  | .recvRetry n => recvRetry n
  | .configure => configure
  | .rngStream => rngStream
  | .seedStream => seedStream
  | .wipe => wipe
  | .wink => wink
  | .boot => boot
  | .bootDestroy => bootDestroy
  | .reserved op => reserved op
  | .wireIsBuild => wireIsBuild
  | .wireGetSerial => wireGetSerial
  | .wireIsConfigured => wireIsConfigured
  | .wireLock hi lo => wireLock hi lo
  | .wireGenKey => wireGenKey
  | .wireLoadTransKey key => wireLoadTransKey key
  | .wireLoadWriteKey mask => wireLoadWriteKey mask
  | .wireLoadAttestKey key => wireLoadAttestKey key
  | .wireBootloaderShort => wireBootloaderShort
  | .wireBootloaderLong => wireBootloaderLong
  | .wireBootloaderDestroyShort => wireBootloaderDestroyShort
  | .wireBootloaderDestroyLong => wireBootloaderDestroyLong
  | .wireRng => wireRng
  | .wireSeed chunk => wireSeed chunk
  | .wireWipe => wireWipe
  | .wireWink => wireWink

theorem decodeCommand_encode (p : Params) {i : Instr} (hc : i.isCommand = true)
    (hw : i.wellFormed = true) : decodeCommand (encode p i) = .ok i := by
  have h := Laws.RoundTrip.statement i hw p
  rwa [if_pos hc] at h

theorem decodeFrame_encode {p : Params} (hu : p.cmd.Unambiguous) {i : Instr}
    (hc : i.isCommand = false) (hw : i.wellFormed = true) : decodeFrame p (encode p i) = .ok i := by
  have h := Laws.RoundTrip.statement i hw p
  rw [if_neg (Bool.eq_false_iff.mp hc)] at h
  exact h hu

/-- The decoder of command words takes four bytes and no other number (30_encoding.md R82). -/
theorem decodeCommand_ok_length {bs : List Byte} {i : Instr} (h : decodeCommand bs = .ok i) :
    bs.length = 4 := by
  unfold decodeCommand at h
  split at h
  · rfl
  · cases h

/-- The decoder of frames takes no more bytes than a packet holds (30_encoding.md R85). -/
theorem decodeFrame_ok_length {p : Params} {bs : List Byte} {i : Instr}
    (h : decodeFrame p bs = .ok i) : bs.length ≤ 64 := by
  unfold decodeFrame at h
  split at h
  · cases h
  · next hlen => exact Nat.le_of_not_lt hlen

/-- Settles O1: the decoder of command words answers, so it has been given four bytes. -/
theorem commandWordsRoundTrip : Obligations.CommandWordsRoundTrip := fun p _ hc hw =>
  have hdec := decodeCommand_encode p hc hw
  ⟨decodeCommand_ok_length hdec, hdec⟩

/-- Settles O2: the decoder of frames answers, so it has been given at most 64 bytes. -/
theorem wireFramesRoundTrip : Obligations.WireFramesRoundTrip := fun _ _ hu hc hw =>
  have hdec := decodeFrame_encode hu hc hw
  ⟨decodeFrame_ok_length hdec, hdec⟩

/-! ### What a decoded frame is -/

/-- A frame that decodes is a long one or a short one, and its command's decoder answers (30_encoding.md
R86, R87). -/
theorem decodeFrame_ok {p : Params} {bs : List Byte} {i : Instr} (h : decodeFrame p bs = .ok i) :
    (∃ c pl, bs = longBytes p.longBcnt c pl ∧ decodeLong p.cmd c pl = .ok i) ∨
      (∃ c pl, bs = shortBytes c pl ∧ decodeShort p.cmd c pl = .ok i) := by
  unfold decodeFrame at h
  split at h
  · cases h
  split at h
  next c rest _ =>
    split at h
    next pl hdrop => exact .inl ⟨c, pl, by rw [longBytes, dropBcnt_ok hdrop]; rfl, h⟩
    next => cases h
  next c pl _ _ => exact .inr ⟨c, pl, rfl, h⟩
  next => cases h
  next => cases h

/-- Settles O3: each form's command decoder says what its frame encodes. -/
theorem decodedFramesEncodeBack : Obligations.DecodedFramesEncodeBack := by
  intro p bs i h
  obtain ⟨c, pl, rfl, hlong⟩ | ⟨c, pl, rfl, hshort⟩ := decodeFrame_ok h
  · exact decodeLong_ok hlong
  · exact decodeShort_ok hshort

/-! ### The bits of a command word -/

/-- What decodes from a command word is an operation the encoding can write (30_encoding.md R81). -/
theorem decodeWord_wellFormed (op a b c : Byte) : (decodeWord op a b c).wellFormed = true := by
  by_cases h : op ∈ mappedOpcodes
  · fin_cases h <;> rfl
  · rw [decodeWord_reserved a b c h]
    simpa [Instr.wellFormed] using h

/-- The OPC values that select no operation are those outside the map (30_encoding.md R80, R81). -/
theorem decodeWord_eq_reserved_iff (op a b c : Byte) :
    decodeWord op a b c = .reserved op ↔ op ∉ mappedOpcodes := by
  refine ⟨fun h => ?_, decodeWord_reserved a b c⟩
  have hw := decodeWord_wellFormed op a b c
  rw [h] at hw
  simpa [Instr.wellFormed] using hw

/-- Bit 0 of KDF's argument, taken as a Bool and written back as a byte (30_encoding.md R79). -/
theorem ite_getLsbD_zero (a : Byte) : (if a.getLsbD 0 then 1 else 0) = a &&& 0x01 := by
  rw [show a &&& 0x01 = _ from BitVec.and_one_eq_setWidth_ofBool_getLsbD]
  cases a.getLsbD 0 <;> rfl

/-- An operation's word keeps OPC and the argument bits the operation takes (30_encoding.md R78, R79). -/
theorem encode_decodeWord (p : Params) (op a b c : Byte) :
    encode p (decodeWord op a b c) =
      [op,
       if op ∈ [0x11#8, 0x42#8, 0x43#8, 0x44#8] then a else if op = 0x20 then a &&& 0x01 else 0,
       if op = 0x42 then b else 0,
       if op = 0x42 then c else 0] := by
  by_cases h : op ∈ mappedOpcodes
  · rw [← ite_getLsbD_zero a]
    fin_cases h <;> rfl
  · have hne : ∀ x ∈ mappedOpcodes, op ≠ x := fun x hx e => h (e ▸ hx)
    have hsub : ∀ x ∈ [0x11#8, 0x42#8, 0x43#8, 0x44#8], x ∈ mappedOpcodes := by decide
    have hA : op ∉ [0x11#8, 0x42#8, 0x43#8, 0x44#8] := mt (hsub op) h
    rw [decodeWord_reserved a b c h, if_neg hA, if_neg (hne 0x20 (by decide)),
      if_neg (hne 0x42 (by decide)), if_neg (hne 0x42 (by decide))]
    rfl

/-- Settles O4: the word written back, that it is well formed, and which values are reserved. -/
theorem argumentBitsTaken : Obligations.ArgumentBitsTaken := fun p op a b c =>
  ⟨encode_decodeWord p op a b c, decodeWord_wellFormed op a b c, decodeWord_eq_reserved_iff op a b c⟩

/-! ### Sample words -/

/-- A frame of two bytes is a short one, 0xFF as its command included: the channel-broadcast bytes are four
(30_encoding.md R86, R87). -/
theorem decodeFrame_pair (p : Params) (c : Byte) : decodeFrame p [0x00, c] = decodeShort p.cmd c [] := by
  unfold decodeFrame
  simp

/-- Settles O5: the words are read as written out, and is-build is the first command a short frame is
compared with. -/
theorem sampleWordsDecode : Obligations.SampleWordsDecode := by
  refine ⟨rfl, rfl, rfl, rfl, rfl, rfl, rfl, fun p => ?_⟩
  rw [decodeFrame_pair, decodeShort, if_pos rfl]
  rfl

end Sys2Proof
end

/-! ## The wire frames on the link (30_encoding.md R91 to R104, 43_transport.md R135) -/

section
namespace Sys2Proof.Machine

/-- An instruction that is the Transmit of a short frame sends its bytes (30_encoding.md R86). -/
theorem sends_of_transmitShort {i : Instr} {c : Byte} {p : List Byte} {s : State}
    (hp : p.length ≤ shortMax) (hi : exec i s = .next (s.transmitShort c p)) :
    Sends i (shortFrame c p) s := by
  refine ⟨_, hi, ?_⟩
  rw [← shortFrame_eq]
  exact transmitted_transmit (by rw [shortBytes_length]; unfold shortMax at hp; omega) s

/-- A long frame with the longest payload of its variant fills a packet (30_encoding.md R87). -/
theorem longBytes_length_le {bcnt : Bool} {p : List Byte} (c : Byte) (hp : p.length ≤ longMax bcnt) :
    (longBytes bcnt c p).length ≤ 64 := by
  rw [longBytes_length]
  cases bcnt <;> simpa [longMax] using hp

/-- An instruction that is the Transmit of a long frame sends its bytes, with the length bytes of the
variant or without (30_encoding.md R87). -/
theorem sends_of_transmitLong {i : Instr} {c : Byte} {p : List Byte} {s : State}
    (hp : p.length ≤ longMax s.params.longBcnt) (hi : exec i s = .next (s.transmitLong c p)) :
    Sends i (longFrame s c p) s := by
  have hlen := longBytes_length_le c hp
  refine ⟨_, hi, ?_⟩
  rw [← longFrame_eq s c (by rw [longBytes_length] at hlen; omega)]
  exact transmitted_transmit hlen s

/-- A payload that fits with the length bytes fits without them (30_encoding.md R87). -/
theorem le_longMax {n : Nat} (h : n ≤ 56) (bcnt : Bool) : n ≤ longMax bcnt := by
  cases bcnt <;> simp [longMax] <;> omega

/-- Settles O34: each frame's meaning is the Transmit of its form, and its payload fits the form. -/
theorem wireFramesAreTransmitted : Obligations.WireFramesAreTransmitted := fun _ =>
  ⟨sends_of_transmitShort (Nat.zero_le _) rfl, sends_of_transmitShort (Nat.zero_le _) rfl,
    sends_of_transmitShort (Nat.zero_le _) rfl,
    fun _ _ => sends_of_transmitShort (by simp [shortMax]) rfl,
    sends_of_transmitShort (Nat.zero_le _) rfl,
    fun _ hk => sends_of_transmitShort (hk.trans_le (by decide)) rfl,
    fun _ hk => sends_of_transmitShort (hk.trans_le (by decide)) rfl,
    fun _ hk => sends_of_transmitShort (hk.trans_le (by decide)) rfl,
    sends_of_transmitShort (Nat.zero_le _) rfl, sends_of_transmitLong (Nat.zero_le _) rfl,
    sends_of_transmitShort (Nat.zero_le _) rfl, sends_of_transmitLong (Nat.zero_le _) rfl,
    sends_of_transmitLong (Nat.zero_le _) rfl,
    fun _ _ hk => sends_of_transmitLong (le_longMax (hk.trans (by decide)) _) rfl,
    sends_of_transmitLong (Nat.zero_le _) rfl, sends_of_transmitLong (Nat.zero_le _) rfl⟩

/-! ## A placed command word (40_control.md R106) -/

/-- A number of 32 bits decodes to the operation of its four bytes, whatever they are (30_encoding.md
R77). -/
theorem decodeTableWord_command (w : Nat) :
    decodeTableWord 32 w =
      some (decodeWord (BitVec.ofNat 8 (w >>> 24)) (BitVec.ofNat 8 (w >>> 16)) (BitVec.ofNat 8 (w >>> 8))
        (BitVec.ofNat 8 w)) := rfl

/-- The CORE moves next after a command word is placed, and runs its first step (40_control.md R107). -/
theorem step_placeCommand (op a b c : Byte) (s : State) :
    step (placeCommand op a b c s) =
      exec (decodeWord op a b c) (State.issue op { s with argA := a, argB := b, argC := c }) :=
  calc step (placeCommand op a b c s)
    _ = moveStep .core { placeCommand op a b c s with sched := s.sched } := step_of_sched rfl
    _ = _ := rfl

/-- Settles O7: the word is placed with the four bytes it decodes from. -/
theorem placedCommandWordRuns : Obligations.PlacedCommandWordRuns := by
  intro s w i h
  obtain rfl : decodeWord _ _ _ _ = i := Option.some.inj ((decodeTableWord_command w).symm.trans h)
  exact step_placeCommand _ _ _ _ s

end Sys2Proof.Machine
end

/-! ## The CORE's step and the schedule (40_control.md R107, 20_memory.md R70) -/

section
namespace Sys2Proof.Machine

theorem coreStep_idle {s : State} (h : s.phase = .idle) : coreStep s = .next s := by
  unfold coreStep
  rw [h]

theorem step_of_nil {s : State} (h : s.sched = []) : step s = coreStep s := by
  unfold step systemStep
  rw [h]

/-- The CORE moves where the schedule names it, and where the schedule is empty (assumption 3). -/
theorem step_of_core {s : State} {rest : List Move}
    (h : (s.sched = [] ∧ rest = []) ∨ s.sched = .core :: rest) :
    step s = coreStep { s with sched := rest } := by
  obtain ⟨hs, rfl⟩ | hs := h
  · rw [step_of_nil hs, ← hs]
  · exact step_of_sched hs

/-- Settles O6: the CORE moves, and its step depends on whether PH is IDLE. -/
theorem stepRunsTheLatchedOperation : Obligations.StepRunsTheLatchedOperation := fun s rest h =>
  ⟨fun hidle => (step_of_core h).trans (coreStep_idle (s := { s with sched := rest }) hidle),
    fun hbusy => (step_of_core h).trans (coreStep_busy (s := { s with sched := rest }) hbusy)⟩

/-- A HOST write leaves the schedule. -/
theorem writeByte_sched (s : State) (off : Offset) (v : Byte) :
    (s.writeByte off v).sched = s.sched := by
  rcases writeByte_cases s off v with e | e | ⟨-, e⟩ | e | ⟨-, e⟩ | ⟨-, -, -, e⟩ <;> rw [e]
  · rfl
  · rfl
  · rfl
  · exact (storeByte_keepsInternals off.toNat v s).latch.sched

/-- A CORE step leaves the schedule. -/
theorem coreStep_sched {s t : State} (h : coreStep s = .next t) : t.sched = s.sched := by
  rcases coreStep_cases h with ⟨-, rfl⟩ | ⟨-, he⟩
  · rfl
  · exact (exec_keepsHosts he).latch.sched

/-- A step puts no move on the schedule but the CORE's turn between two polls: any other was there before
(30_encoding.md R84). -/
theorem mem_sched_of_step {s t : State} (h : step s = .next t) {m : Move} (hm : m ∈ t.sched) :
    m ∈ s.sched ∨ m = .core := by
  rcases step_cases h with ⟨r, hc, hr⟩ | ⟨off, r, hr, rfl⟩ | ⟨off, v, r, hr, rfl⟩ |
    ⟨again, n, r, hr, -, -, rfl⟩ | ⟨r, hr, rfl⟩
  · rw [coreStep_sched hc] at hm
    obtain ⟨-, rfl⟩ | hr := hr
    · nomatch hm
    · exact .inl (hr ▸ .tail _ hm)
  · exact .inl (hr ▸ .tail _ hm)
  · rw [writeByte_sched] at hm
    exact .inl (hr ▸ .tail _ hm)
  · obtain ⟨q, e, hq⟩ := pollStatus_eq again n { s with sched := r }
    rw [e] at hm
    rw [hr]
    obtain rfl | rfl := hq
    · exact .inl (.tail _ hm)
    · exact (List.mem_cons.mp hm).symm
  · exact .inl (hr ▸ .tail _ hm)

end Sys2Proof.Machine
end

/-! ## No run stops (40_control.md R107, 60_exceptions.md R171, 10_state.md R53) -/

section
namespace Sys2Proof.Machine

/-! ### The positions of the latched operation -/

theorem latched_of_opl {s : State} {op : Byte} (h : s.opl = op) :
    latched s = decodeWord op s.al s.bl s.cl := by
  unfold latched
  rw [h]

/-- A wait at a position of the latched operation is one that operation enters (10_state.md R53). -/
theorem waitsIn_latched {s : State} {lim : Timeout} (h : PhaseOfOperation s)
    (hphase : s.phase = .await lim .afterAwait) : waitsIn (latched s) lim s.seqStep := by
  unfold PhaseOfOperation at h
  rw [hphase] at h
  obtain ⟨hopl, hlim⟩ | ⟨hopl, hlim⟩ | ⟨hopl, hlim, hstep⟩ | ⟨hopl, hlim⟩ | ⟨hopl, hlim⟩ |
    ⟨hopl, hlim⟩ := h
  · exact .inl ⟨s.al, latched_of_opl hopl, hlim⟩
  · exact .inr (.inl ⟨s.al, latched_of_opl hopl, hlim⟩)
  · exact .inr (.inr (.inl ⟨latched_of_opl hopl, hlim, hstep⟩))
  · exact .inr (.inr (.inr (.inl ⟨latched_of_opl hopl, hlim⟩)))
  · exact .inr (.inr (.inr (.inr (.inl ⟨latched_of_opl hopl, hlim⟩))))
  · exact .inr (.inr (.inr (.inr (.inr ⟨latched_of_opl hopl, hlim⟩))))

/-- Where PH can stand: IDLE, the start of any operation, or one of the three other positions, which belong
to the latched operation (10_state.md R53). -/
theorem phaseOfOperation_cases {s : State} (h : PhaseOfOperation s) :
    s.phase = .idle ∨ s.phase = .ready .start ∨
      (s.phase = .ready .loopTop ∧ (latched s = .rngStream ∨ latched s = .seedStream)) ∨
      (∃ lim, s.phase = .await lim .afterAwait ∧ waitsIn (latched s) lim s.seqStep) ∨
      (s.phase = .input .afterInput ∧ latched s = .seedStream) := by
  have hpos := h
  unfold PhaseOfOperation at hpos
  split at hpos
  all_goals try exact False.elim hpos
  next hphase => exact .inl hphase
  next hphase => exact .inr (.inl hphase)
  next hphase => exact .inr (.inr (.inl ⟨hphase, hpos.imp latched_of_opl latched_of_opl⟩))
  next lim hphase => exact .inr (.inr (.inr (.inl ⟨lim, hphase, waitsIn_latched h hphase⟩)))
  next hphase => exact .inr (.inr (.inr (.inr ⟨hphase, latched_of_opl hpos⟩)))

/-! ### Each position has a next state -/

/-- Every instruction has a first step: the start is a position of them all (40_control.md R107). -/
theorem exec_start_next {s : State} (h : s.phase = .ready .start) (i : Instr) :
    ∃ t, exec i s = .next t := by
  cases i with
  | recv a => exact ⟨recvStart a s, by simp only [exec, execRecv, h]⟩
  | recvRetry n => exact ⟨recvRetryStart s, by simp only [exec, execRecvRetry, h]⟩
  | configure => exact ⟨configureStart s, by simp only [exec, execConfigure, h]⟩
  | rngStream => exact ⟨rngStart s, by simp only [exec, execRngStream, h]⟩
  | seedStream => exact ⟨seedStart s, by simp only [exec, execSeedStream, h]⟩
  | wipe => exact ⟨wipeStart s, by simp only [exec, execWipe, h]⟩
  | _ => exact ⟨_, rfl⟩

/-- The streams go on from the top of their loops (45_supplementary.md R163, R164). -/
theorem exec_loopTop_next {s : State} (h : s.phase = .ready .loopTop) {i : Instr}
    (hi : i = .rngStream ∨ i = .seedStream) : ∃ t, exec i s = .next t := by
  obtain rfl | rfl := hi
  · exact ⟨rngLoopTop s, by simp only [exec, execRngStream, h]⟩
  · exact ⟨seedLoopTop s, by simp only [exec, execSeedStream, h]⟩

/-- SEED_STREAM goes on in its input wait, whether or not it has a chunk (45_supplementary.md R164). -/
theorem exec_input_next {s : State} (h : s.phase = .input .afterInput) :
    ∃ t, exec .seedStream s = .next t :=
  ⟨seedInput s, by simp only [exec, execSeedStream, h]⟩

/-- CONFIGURE goes on from the await of each step that has one (44_sequencer.md R148 to R158). -/
theorem configureCaptured_some {s : State} (h : s.seqStep ∈ awaitingSteps) (o : RxOutcome) :
    ∃ t, configureCaptured o s = some t := by
  simp only [awaitingSteps, List.mem_cons, List.not_mem_nil, or_false] at h
  unfold configureCaptured
  obtain h | h | h | h | h | h | h := h <;> rw [h] <;> exact ⟨_, rfl⟩

theorem configureGoOn_next {s : State} (h : s.seqStep ∈ awaitingSteps) (lim : Timeout) :
    ∃ t, configureGoOn lim s = .next t := by
  unfold configureGoOn
  cases delivered lim s with
  | none => exact ⟨s.keepWaiting, rfl⟩
  | some o =>
    obtain ⟨t, ht⟩ := configureCaptured_some (s := s.receive o) h o
    exact ⟨t, by simp only [ht]⟩

/-- An operation goes on from each await that it enters, with or without a delivery (43_transport.md
R136). -/
theorem exec_await_next {s : State} {lim : Timeout} (h : s.phase = .await lim .afterAwait) {i : Instr}
    (hi : waitsIn i lim s.seqStep) : ∃ t, exec i s = .next t := by
  obtain ⟨a, rfl, -⟩ | ⟨n, rfl, -⟩ | ⟨rfl, -, hstep⟩ | ⟨rfl, -⟩ | ⟨rfl, -⟩ | ⟨rfl, -⟩ := hi
  · exact ⟨recvGoOn lim s, by simp only [exec, execRecv, h]⟩
  · exact ⟨recvRetryGoOn n lim s, by simp only [exec, execRecvRetry, h]⟩
  · obtain ⟨t, ht⟩ := configureGoOn_next hstep lim
    exact ⟨t, by simp only [exec, execConfigure, h, ht]⟩
  · exact ⟨rngGoOn lim s, by simp only [exec, execRngStream, h]⟩
  · exact ⟨seedGoOn lim s, by simp only [exec, execSeedStream, h]⟩
  · exact ⟨wipeGoOn lim s, by simp only [exec, execWipe, h]⟩

/-- The CORE has a next state wherever PH is a position of the latched operation. -/
theorem coreStep_next {s : State} (h : PhaseOfOperation s) : ∃ t, coreStep s = .next t := by
  rcases phaseOfOperation_cases h with hphase | hphase | ⟨hphase, hi⟩ | ⟨lim, hphase, hi⟩ |
    ⟨hphase, hi⟩
  · exact ⟨s, coreStep_idle hphase⟩
  all_goals rw [coreStep_busy (by rw [hphase]; nofun)]
  · exact exec_start_next hphase _
  · exact exec_loopTop_next hphase hi
  · exact exec_await_next hphase hi
  · rw [hi]
    exact exec_input_next hphase

/-! ### Each move has a next state -/

/-- A HOST write of one byte is an access of this hardware (20_memory.md R62). -/
theorem hostWrite_next {vs : List Byte} (h : vs.length = 1) (off : Offset) (s : State) :
    ∃ t, hostWrite off vs s = .next t := by
  obtain ⟨v, rfl⟩ := List.length_eq_one_iff.mp h
  exact ⟨_, rfl⟩

/-- A move this hardware has leads to a next state. -/
theorem moveStep_next {m : Move} (hm : moveIsAccess m = true) {s : State} (h : PhaseOfOperation s) :
    ∃ t, moveStep m s = .next t := by
  cases m with
  | core => exact coreStep_next h
  | hostRead off n => exact ⟨hostReadByte off s, if_pos (of_decide_eq_true hm)⟩
  | hostWrite off vs => exact hostWrite_next (of_decide_eq_true hm) off s
  | wait => exact ⟨_, rfl⟩
  | waitin => exact ⟨_, rfl⟩
  | reset => exact ⟨_, rfl⟩

/-- Progress: with accesses of one byte the system has a next state. -/
theorem step_next {s : State} (h : PhaseOfOperation s) (hm : ∀ m ∈ s.sched, moveIsAccess m = true) :
    ∃ t, step s = .next t := by
  cases hs : s.sched with
  | nil =>
    rw [step_of_nil hs]
    exact coreStep_next h
  | cons m rest =>
    rw [step_of_sched hs]
    exact moveStep_next (hm m (by simp [hs])) h

/-- Settles O60: PH stands where the latched operation has a step, the invariant is kept (O56), and the only
move a step adds is the CORE's. -/
theorem runsNeverStop : Obligations.RunsNeverStop := by
  intro s hs haccess
  obtain ⟨t, ht⟩ := step_next hs.phase haccess
  refine ⟨t, ht, everyStepKeepsTheFlow s t hs ht, fun m hm => ?_⟩
  obtain hold | rfl := mem_sched_of_step ht hm
  · exact haccess m hold
  · rfl

end Sys2Proof.Machine
end

/-! ## The issue, the cancel request, NOP and the reserved codes (40_control.md R106, R109 to R111) -/

section
namespace Sys2Proof.Machine

theorem writeByte_opc (s : State) (v : Byte) : s.writeByte 0x000 v = writeOpc v s := rfl

theorem writeByte_ctrl (s : State) (v : Byte) : s.writeByte 0x008 v = writeCtrl v s := rfl

theorem writeOpc_idle {s : State} (h : s.status.busy = false) (v : Byte) : writeOpc v s = s.issue v :=
  if_neg (Bool.eq_false_iff.mp h)

/-- Of the window an issue changes OPC, STATUS, ERR_CODE and ERR_STEP (40_control.md R106). -/
theorem sameWindowBut_issue (v : Byte) (s : State) :
    SameWindowBut [(0x000, 1), (0x004, 3)] s (s.issue v) :=
  sameWindowBut_of rfl
    (fun a _ ho => readRegister_issue v s a (by simp [inRanges] at ho; omega)) (fun _ _ _ _ => rfl)

/-- Settles O15: while an operation runs the write of OPC is one of the dropped ones, and else it is the
issue. -/
theorem issueLatchesTheOperation : Obligations.IssueLatchesTheOperation := fun s v =>
  ⟨fun hbusy => writeByte_dropped (off := 0x000) rfl hbusy rfl v, fun hidle => by
    dsimp only
    rw [writeByte_opc, writeOpc_idle hidle]
    exact ⟨rfl, rfl, rfl, rfl, rfl, rfl, rfl, rfl, rfl, rfl, sameWindowBut_issue v s,
      { KeepsLogs.refl s with }, rfl, rfl, rfl, rfl, rfl, rfl, rfl⟩⟩

/-- Settles O16: a write of CTRL looks at bit 0 and at nothing of the state. -/
theorem cancelRequestIsBitZero : Obligations.CancelRequestIsBitZero := fun s v =>
  ⟨fun h => (writeByte_ctrl s v).trans (if_pos h),
    fun h => (writeByte_ctrl s v).trans (if_neg (Bool.eq_false_iff.mp h))⟩

/-- Settles O20: NOP's step is the end and a reserved code's the fault, alone. -/
theorem nopEndsAndReservedFaults : Obligations.NopEndsAndReservedFaults := fun s _ =>
  ⟨⟨s.finish, rfl, ended_finish s⟩, ⟨s.raise .illegalOp, rfl, faulted_raise .illegalOp s⟩⟩

end Sys2Proof.Machine
end

/-! ## The end of an operation that wrote some registers (40_control.md R108) -/

section
namespace Sys2Proof.Machine

theorem KeepsLogs.trans {s t u : State} (h : KeepsLogs s t) (h' : KeepsLogs t u) : KeepsLogs s u :=
  ⟨h'.outLog.trans h.outLog, h'.linkLog.trans h.linkLog, h'.env.trans h.env, h'.freeCount.trans h.freeCount⟩

theorem KeepsInternals.trans {s t u : State} (h : KeepsInternals s t) (h' : KeepsInternals t u) :
    KeepsInternals s u :=
  ⟨h.latch.trans h'.latch, h.logs.trans h'.logs, h'.session.trans h.session, h'.cancelReq.trans h.cancelReq⟩

/-- `End()` after a part that leaves STATUS alone adds STATUS to what that part changes of the window. -/
theorem finish_after {rs : List (Nat × Nat)} {s u : State} (hstatus : u.status = s.status)
    (hwindow : SameWindowBut rs s u) (hkeeps : KeepsInternals s u) :
    EndedFrom s.status u.finish ∧ SameWindowBut ((0x004, 1) :: rs) s u.finish ∧
      KeepsInternals s u.finish := by
  obtain ⟨hflags, hend, hinternals⟩ := ended_finish u
  refine ⟨hstatus ▸ hflags, ?_, hkeeps.trans hinternals⟩
  have hpart : SameWindowBut ((0x004, 1) :: rs) s u :=
    hwindow.mono fun a ha => ((inRanges_cons _ _ a).mp ha).2
  have hfinish : SameWindowBut ((0x004, 1) :: rs) u u.finish :=
    hend.mono fun a ha => (inRanges_cons _ _ a).mpr ⟨((inRanges_cons _ _ a).mp ha).1, rfl⟩
  exact hpart.trans hfinish

end Sys2Proof.Machine
end

/-! ## The CRC unit (41_crc.md R112 to R119) -/

section
namespace Sys2Proof.Machine

/-! ### The two registers -/

theorem sameWindowBut_setCrcAcc (x : Word16) (s : State) :
    SameWindowBut [(0x014, 2)] s (s.setCrcAcc x) :=
  sameWindowBut_of rfl
    (fun a _ ho => readRegister_setCrcAcc x s a (by simp [inRanges] at ho; omega)) (fun _ _ _ _ => rfl)

theorem sameWindowBut_setCrcOut (x : Word16) (s : State) :
    SameWindowBut [(0x016, 2)] s (s.setCrcOut x) :=
  sameWindowBut_of rfl
    (fun a _ ho => readRegister_setCrcOut x s a (by simp [inRanges] at ho; omega)) (fun _ _ _ _ => rfl)

/-- The two registers lie side by side: CRC_BLOB writes the four bytes from 0x014 on. -/
theorem sameWindowBut_crcBlob (s : State) : SameWindowBut [(0x014, 4)] s s.crcBlob :=
  have hacc (x : Word16) (t : State) : SameWindowBut [(0x014, 4)] t (t.setCrcAcc x) :=
    (sameWindowBut_setCrcAcc x t).mono fun a => by simp [inRanges]; omega
  have hout (x : Word16) (t : State) : SameWindowBut [(0x014, 4)] t (t.setCrcOut x) :=
    (sameWindowBut_setCrcOut x t).mono fun a => by simp [inRanges]; omega
  (hacc _ s).trans (hout _ _)

theorem keepsInternals_setCrcAcc (x : Word16) (s : State) : KeepsInternals s (s.setCrcAcc x) :=
  ⟨{ KeepsLatch.refl s with }, { KeepsLogs.refl s with }, rfl, rfl⟩

theorem keepsInternals_setCrcOut (x : Word16) (s : State) : KeepsInternals s (s.setCrcOut x) :=
  ⟨{ KeepsLatch.refl s with }, { KeepsLogs.refl s with }, rfl, rfl⟩

theorem keepsInternals_crcBlob (s : State) : KeepsInternals s s.crcBlob :=
  (keepsInternals_setCrcAcc _ s).trans (keepsInternals_setCrcOut _ _)

@[simp] theorem State.crcBlob_status (s : State) : s.crcBlob.status = s.status := by simp [State.crcBlob]

@[simp] theorem State.crcBlob_crcAcc (s : State) :
    s.crcBlob.crcAcc = crcFold 0x0000 (s.buf cfgBase Config.cfgLen) := by simp [State.crcBlob]

@[simp] theorem State.crcBlob_crcOut (s : State) :
    s.crcBlob.crcOut = crc16 (s.buf cfgBase Config.cfgLen) := by simp [State.crcBlob]

/-! ### The four operations -/

theorem exec_crcInit (s : State) : exec .crcInit s = .next (s.setCrcAcc 0x0000).finish := rfl

theorem exec_crcByte (b : Byte) (s : State) :
    exec (.crcByte b) s = .next (s.setCrcAcc (crcStep s.crcAcc b)).finish := rfl

theorem exec_crcFinal (s : State) : exec .crcFinal s = .next (s.setCrcOut (rev16 s.crcAcc)).finish := rfl

theorem exec_crcBlob (s : State) : exec .crcBlob s = .next s.crcBlob.finish := rfl

/-- CFG as the HOST reads it (10_state.md R42). -/
theorem windowBytes_cfg (s : State) : windowBytes s 0x100 128 = s.buf cfgBase Config.cfgLen :=
  windowBytes_eq (bufferFits_of (by omega)) s

/-- Settles O21: each writes one register and ends. -/
theorem crcRegisterOperations : Obligations.CrcRegisterOperations := fun s b =>
  have hacc (x : Word16) := finish_after (State.setCrcAcc_status x s) (sameWindowBut_setCrcAcc x s)
    (keepsInternals_setCrcAcc x s)
  have hout (x : Word16) := finish_after (State.setCrcOut_status x s) (sameWindowBut_setCrcOut x s)
    (keepsInternals_setCrcOut x s)
  ⟨⟨_, exec_crcInit s, rfl, hacc _⟩, ⟨_, exec_crcByte b s, rfl, hacc _⟩,
    ⟨_, exec_crcFinal s, rfl, hout _⟩⟩

/-- Settles O22: what the HOST reads of CFG is the buffer the operation folds over. -/
theorem crcBlobChecksumsCfg : Obligations.CrcBlobChecksumsCfg := fun s => by
  rw [windowBytes_cfg, ← crcFold_eq_foldl]
  exact ⟨_, exec_crcBlob s, State.crcBlob_crcAcc s, State.crcBlob_crcOut s,
    finish_after (State.crcBlob_status s) (sameWindowBut_crcBlob s) (keepsInternals_crcBlob s)⟩

/-! ### The bit reversal (R113) -/

/-- The mask picks the lower bit of each pair of bits a distance `k` apart, `i` and `i xor k`. -/
def PicksLowerBits (k : Nat) (mask : Word16) : Prop :=
  ∀ i < 16,
    if mask.getLsbD i then i ^^^ k = k + i ∧ (k ≤ i → mask.getLsbD (i - k) = false)
    else i ^^^ k = i - k ∧ k ≤ i ∧ mask.getLsbD (i - k) = true

theorem picksLowerBits_rev16 :
    PicksLowerBits 1 0x5555#16 ∧ PicksLowerBits 2 0x3333#16 ∧ PicksLowerBits 4 0x0F0F#16 ∧
      PicksLowerBits 8 0x00FF#16 := by
  unfold PicksLowerBits
  decide

/-- A swap exchanges bit `i` with bit `i xor k`: of its two halves one gives the bit, the other is masked. -/
theorem swapBits_getLsbD {k : Nat} {mask : Word16} (hmask : PicksLowerBits k mask) (x : Word16) {i : Nat}
    (hi : i < 16) : (swapBits k mask x).getLsbD i = x.getLsbD (i ^^^ k) := by
  have hm := hmask i hi
  simp only [swapBits, BitVec.getLsbD_or, BitVec.getLsbD_and, BitVec.getLsbD_ushiftRight,
    BitVec.getLsbD_shiftLeft]
  split at hm
  case isTrue hlow =>
    obtain ⟨hxor, hother⟩ := hm
    by_cases hk : k ≤ i
    · rw [hlow, hxor, hother hk]
      simp
    · rw [hlow, hxor]
      simp [show i < k by omega]
  case isFalse hhigh =>
    obtain ⟨hxor, hk, hlower⟩ := hm
    rw [Bool.eq_false_iff.mpr hhigh, hxor, hlower]
    simp [hi, hk]

/-- The four distances together turn `i` into `15 - i`. -/
theorem xor_distances : ∀ i < 16, i ^^^ 8 ^^^ 4 ^^^ 2 ^^^ 1 = 15 - i := by decide

theorem rev16_getLsbD (x : Word16) {i : Nat} (hi : i < 16) : (rev16 x).getLsbD i = x.getLsbD (15 - i) := by
  obtain ⟨h1, h2, h4, h8⟩ := picksLowerBits_rev16
  have hlt {j k : Nat} (hj : j < 16) (hk : k < 16) : j ^^^ k < 16 := Nat.xor_lt_two_pow (n := 4) hj hk
  have i8 : i ^^^ 8 < 16 := hlt hi (by decide)
  have i4 : i ^^^ 8 ^^^ 4 < 16 := hlt i8 (by decide)
  have i2 : i ^^^ 8 ^^^ 4 ^^^ 2 < 16 := hlt i4 (by decide)
  unfold rev16
  rw [swapBits_getLsbD h8 _ hi, swapBits_getLsbD h4 _ i8, swapBits_getLsbD h2 _ i4,
    swapBits_getLsbD h1 _ i2, xor_distances i hi]

theorem rev16_rev16 (x : Word16) : rev16 (rev16 x) = x := by
  refine BitVec.eq_of_getLsbD_eq fun i hi => ?_
  rw [rev16_getLsbD _ hi, rev16_getLsbD _ (by omega), show 15 - (15 - i) = i by omega]

/-- Settles O23: bit by bit, and the bit's number is reversed twice. -/
theorem bitReversalMovesEachBit : Obligations.BitReversalMovesEachBit := fun x =>
  ⟨fun _ hi => rev16_getLsbD x hi, rev16_rev16 x⟩

/-! ### The fold over bytes (R112, R114) -/

theorem crcShifts_eq_iterate (n : Nat) (a : Word16) : crcShifts n a = Nat.iterate crcShift n a := by
  induction n generalizing a with
  | zero => rfl
  | succ n ih => exact ih (crcShift a)

/-- Zero bytes leave a cleared accumulator cleared (41_crc.md R119). -/
theorem crcFold_zeros (n : Nat) : crcFold 0x0000 (List.replicate n 0x00) = 0x0000 := by
  induction n with
  | zero => rfl
  | succ n ih =>
    have hstep : crcStep 0x0000 0x00 = 0x0000 := by decide
    rw [List.replicate_succ, crcFold, hstep, ih]

theorem crc16_zeros (n : Nat) : crc16 (List.replicate n 0x00) = 0x0000 := by
  have hrev : rev16 0x0000 = 0x0000 := by decide
  exact (congrArg rev16 (crcFold_zeros n)).trans hrev

/-! ### Byte by byte (R119) -/

theorem execAll_append (is js : List Instr) (s t : State) :
    execAll (is ++ js) s t ↔ ∃ u, execAll is s u ∧ execAll js u t := by
  induction is generalizing s with
  | nil => simp [execAll]
  | cons i is ih =>
    simp only [List.cons_append, execAll, ih]
    constructor
    · rintro ⟨v, hv, u, hu, ht⟩
      exact ⟨u, ⟨v, hv, hu⟩, ht⟩
    · rintro ⟨u, ⟨v, hv, hu⟩, ht⟩
      exact ⟨v, hv, u, hu, ht⟩

/-- One CRC_BYTE for each byte folds them into the accumulator. -/
theorem execAll_crcBytes (bs : List Byte) (s : State) :
    ∃ t, execAll (bs.map Instr.crcByte) s t ∧ t.crcAcc = crcFold s.crcAcc bs := by
  induction bs generalizing s with
  | nil => exact ⟨s, rfl, rfl⟩
  | cons b bs ih =>
    obtain ⟨t, hrun, hacc⟩ := ih (s.setCrcAcc (crcStep s.crcAcc b)).finish
    exact ⟨t, ⟨_, exec_crcByte b s, hrun⟩, hacc⟩

/-- CRC_INIT, the bytes and CRC_FINAL leave the CRC and the accumulator it is the reversal of. -/
theorem execAll_crcBytewise (bs : List Byte) (s : State) :
    ∃ t, execAll (.crcInit :: (bs.map Instr.crcByte ++ [.crcFinal])) s t ∧
      t.crcOut = crc16 bs ∧ t.crcAcc = crcFold 0x0000 bs := by
  obtain ⟨u, hbytes, hacc⟩ := execAll_crcBytes bs (s.setCrcAcc 0x0000).finish
  have hrun := (execAll_append _ [.crcFinal] _ _).mpr ⟨u, hbytes, _, exec_crcFinal u, rfl⟩
  exact ⟨_, ⟨_, exec_crcInit s, hrun⟩, congrArg rev16 hacc, hacc⟩

/-- Settles O24: by induction on the shifts, on the zero bytes and on the bytes fed; CRC_BLOB folds over the
same bytes from the same cleared accumulator. -/
theorem crcBytewiseEqualsBlob : Obligations.CrcBytewiseEqualsBlob := by
  refine ⟨fun acc b => crcShifts_eq_iterate 8 _, by decide, by decide, crc16_zeros, fun s bs => ?_⟩
  obtain ⟨t, hrun, hout, hacc⟩ := execAll_crcBytewise bs s
  refine ⟨t, hrun, hout, ?_⟩
  rintro rfl
  rw [hout, hacc, windowBytes_cfg]
  exact ⟨_, exec_crcBlob s, State.crcBlob_crcOut s, State.crcBlob_crcAcc s⟩

end Sys2Proof.Machine
end

/-! ## KDF (42_sha_kdf.md R128 to R132) -/

section
namespace Sys2Proof.Machine

/-! ### A buffer written whole -/

theorem sameWindowBut_setBuf {bs : List Byte} {n : Nat} (hn : bs.length = n) (base : Nat) (s : State) :
    SameWindowBut [(base, n)] s (s.setBuf base bs) :=
  sameWindowBut_of rfl (fun _ _ _ => rfl) fun a _ _ ho =>
    Memory.read_writeBytes_out s.mem bs (by simp [inRanges] at ho; omega)

theorem keepsInternals_setBuf (base : Nat) (bs : List Byte) (s : State) :
    KeepsInternals s (s.setBuf base bs) :=
  ⟨{ KeepsLatch.refl s with }, { KeepsLogs.refl s with }, rfl, rfl⟩

/-- The HOST reads a buffer of the window as it was written. -/
theorem windowBytes_setBuf {base n : Nat} {bs : List Byte} (hn : bs.length = n) (h : bufferFits base n)
    (s : State) : windowBytes (s.setBuf base bs) base n = bs := by
  subst hn
  exact (windowBytes_eq h _).trans (Memory.readBytes_writeBytes s.mem base bs)

/-- `End()` leaves every byte above STATUS as it was (40_control.md R108). -/
theorem windowBytes_finish (s : State) (base n : Nat) (h1 : 0x005 ≤ base) (h2 : base + n ≤ 0x400) :
    windowBytes s.finish base n = windowBytes s base n :=
  (ended_finish s).window.windowBytes base n h2 fun a _ _ => by simp [inRanges]; omega

/-! ### The digests (R128, R129) -/

section
variable (k : List Byte) (s : State)

theorem sameWindowBut_setDigests : SameWindowBut [(0x2E0, 64)] s (s.setDigests k) :=
  have h1 : SameWindowBut [(0x2E0, 32)] s (s.setBuf digest1Base (digest1 k)) :=
    sameWindowBut_setBuf (digest1_length k) _ s
  have h2 : SameWindowBut [(0x300, 32)] (s.setBuf digest1Base (digest1 k)) (s.setDigests k) :=
    sameWindowBut_setBuf (digest2_length k) _ _
  (h1.mono fun a => by simp [inRanges]; omega).trans (h2.mono fun a => by simp [inRanges]; omega)

/-- The second digest is written outside the first. -/
theorem windowBytes_setDigests_digest1 : windowBytes (s.setDigests k) 0x2E0 32 = digest1 k :=
  have h2 : SameWindowBut [(0x300, 32)] (s.setBuf digest1Base (digest1 k)) (s.setDigests k) :=
    sameWindowBut_setBuf (digest2_length k) _ _
  (h2.windowBytes 0x2E0 32 (by decide) fun a _ _ => by simp [inRanges]; omega).trans
    (windowBytes_setBuf (digest1_length k) (bufferFits_of (base := 0x2E0) (by omega)) s)

theorem windowBytes_setDigests_digest2 : windowBytes (s.setDigests k) 0x300 32 = digest2 k :=
  windowBytes_setBuf (digest2_length k) (bufferFits_of (base := 0x300) (by omega)) _

theorem keepsInternals_setDigests : KeepsInternals s (s.setDigests k) :=
  (keepsInternals_setBuf _ _ s).trans (keepsInternals_setBuf _ _ _)

end

/-! ### The operation (R130, R132) -/

/-- The buffers KDF writes for the selected key: the digests, then the mask. -/
def State.writeKdf (readKey : Bool) (s : State) : State :=
  (s.setDigests (selectedKey readKey s)).setBuf (selectedMask readKey) (deriveMask (selectedKey readKey s))

theorem exec_kdf (readKey : Bool) (s : State) :
    exec (.kdf readKey) s = .next (s.writeKdf readKey).finish := rfl

section
variable (readKey : Bool) (s : State)

/-- The selected key as the HOST reads it (10_state.md R44). -/
theorem windowBytes_selectedKey :
    windowBytes s (if readKey then 0x220 else 0x200) 32 = selectedKey readKey s :=
  windowBytes_eq (bufferFits_of (by cases readKey <;> simp)) s

/-- The two masks of the map (10_state.md R46). -/
theorem selectedMask_cases : selectedMask readKey = 0x260 ∨ selectedMask readKey = 0x2A0 := by
  cases readKey
  · exact .inl rfl
  · exact .inr rfl

@[simp] theorem State.writeKdf_status : (s.writeKdf readKey).status = s.status := by
  simp [State.writeKdf, State.setDigests]

theorem keepsInternals_writeKdf : KeepsInternals s (s.writeKdf readKey) :=
  (keepsInternals_setDigests _ s).trans (keepsInternals_setBuf _ _ _)

/-- The last write of KDF is the mask's. -/
theorem sameWindowBut_setDigests_writeKdf :
    SameWindowBut [(selectedMask readKey, 36)] (s.setDigests (selectedKey readKey s)) (s.writeKdf readKey) :=
  sameWindowBut_setBuf (deriveMask_length _) _ _

theorem sameWindowBut_writeKdf :
    SameWindowBut [(0x2E0, 64), (selectedMask readKey, 36)] s (s.writeKdf readKey) :=
  ((sameWindowBut_setDigests _ s).mono fun a => by simp [inRanges]; omega).trans
    ((sameWindowBut_setDigests_writeKdf readKey s).mono fun a => by simp [inRanges])

/-- Either mask lies below the digests, which stay as they were written. -/
theorem windowBytes_writeKdf_digest {base : Nat} (h : base = 0x2E0 ∨ base = 0x300) :
    windowBytes (s.writeKdf readKey) base 32 =
      windowBytes (s.setDigests (selectedKey readKey s)) base 32 := by
  have hmask := selectedMask_cases readKey
  exact (sameWindowBut_setDigests_writeKdf readKey s).windowBytes base 32 (by omega)
    fun a _ _ => by simp [inRanges]; omega

theorem windowBytes_writeKdf_mask :
    windowBytes (s.writeKdf readKey) (selectedMask readKey) 36 = deriveMask (selectedKey readKey s) := by
  have hmask := selectedMask_cases readKey
  exact windowBytes_setBuf (deriveMask_length _) (bufferFits_of (by omega)) _

end

/-- Settles O25: the three buffers do not overlap, so each reads back as written, and the frame is that of
the three writes and the end. -/
theorem kdfDerivesTheSelectedMask : Obligations.KdfDerivesTheSelectedMask := by
  intro s readKey
  have hmask := selectedMask_cases readKey
  rw [windowBytes_selectedKey]
  refine ⟨_, exec_kdf readKey s, ?digest1, ?digest2, ?mask, finish_after
    (State.writeKdf_status readKey s) (sameWindowBut_writeKdf readKey s) (keepsInternals_writeKdf readKey s)⟩
  case digest1 =>
    rw [windowBytes_finish _ _ _ (by decide) (by decide), windowBytes_writeKdf_digest _ _ (.inl rfl)]
    exact windowBytes_setDigests_digest1 _ s
  case digest2 =>
    rw [windowBytes_finish _ _ _ (by decide) (by decide), windowBytes_writeKdf_digest _ _ (.inr rfl)]
    exact windowBytes_setDigests_digest2 _ s
  case mask =>
    exact (windowBytes_finish _ (selectedMask readKey) 36 (by omega) (by omega)).trans
      (windowBytes_writeKdf_mask readKey s)

end Sys2Proof.Machine
end

/-! ## The session (43_transport.md R138 to R140) -/

section
namespace Sys2Proof.Machine

/-- The session and STATUS.OPEN, which shows it, are unchanged. -/
def KeepsSession (s t : State) : Prop := t.session = s.session ∧ t.status.opened = s.status.opened

theorem KeepsSession.refl (s : State) : KeepsSession s s := ⟨rfl, rfl⟩

theorem KeepsSession.trans {s t u : State} (h : KeepsSession s t) (h' : KeepsSession t u) :
    KeepsSession s u :=
  ⟨h'.1.trans h.1, h'.2.trans h.2⟩

theorem Act.keepsSession {s t : State} (a : Act s t) : KeepsSession s t := by
  cases a <;> exact ⟨rfl, rfl⟩

theorem Ends.keepsSession {i : Instr} {s t : State} (e : Ends i s t) : KeepsSession s t := by
  cases e <;> exact ⟨rfl, rfl⟩

/-- Settles O52: the shared operations and the endings leave the session, and a wire frame is one Transmit. -/
theorem sessionOnlyByOpenAndClose : Obligations.SessionOnlyByOpenAndClose := by
  intro i s t h ho hc
  cases hi : i.isCommand with
  | true =>
    exact exec_keeps (P := KeepsSession) .refl (fun _ _ _ => .trans) (fun _ _ => Act.keepsSession)
      (fun _ _ _ => Ends.keepsSession) hi ho hc h
  | false =>
    cases (exec_wire hi s).symm.trans h
    exact ⟨rfl, rfl⟩

/-! ### CLOSE (R140) -/

/-- Of the window the end of a session changes STATUS.OPEN. -/
theorem sameWindowBut_closeSession (s : State) : SameWindowBut [(0x004, 1)] s s.closeSession :=
  sameWindowBut_of rfl
    (fun a _ ho => readRegister_closeSession s a (by rintro rfl; simp [inRanges] at ho))
    (fun _ _ _ _ => rfl)

/-- Settles O28: no state is a fault's, and the end of the session and of the operation are all that CLOSE
does. -/
theorem closeEndsTheSession : Obligations.CloseEndsTheSession := fun s =>
  ⟨_, execClose_eq s, rfl, rfl, rfl, rfl, (sameWindowBut_closeSession s).trans (ended_finish _).window,
    { KeepsLatch.refl s with }, { KeepsLogs.refl s with }, rfl⟩

/-! ### OPEN (R139) -/

section
variable {s : State}

theorem exec_openDev_busy (h : s.status.opened = true) :
    exec .openDev s = .next (s.raise .sessionBusy) :=
  congrArg Host.Outcome.next (if_pos h)

theorem exec_openDev_badArgument (h : s.status.opened = false) (hlen : 64 < s.filterLen.toNat) :
    exec .openDev s = .next (s.raise .badArgument) :=
  congrArg Host.Outcome.next ((if_neg (Bool.eq_false_iff.mp h)).trans (if_pos hlen))

theorem exec_openDev_taken (h : s.status.opened = false) (hlen : s.filterLen.toNat ≤ 64) :
    exec .openDev s = .next (openTaken s) :=
  congrArg Host.Outcome.next ((if_neg (Bool.eq_false_iff.mp h)).trans (if_neg (Nat.not_lt.mpr hlen)))

theorem openTaken_none (h : openedToken s = none) : openTaken s = s.dropOpen.raise .deviceNotFound := by
  unfold openTaken
  rw [h]

theorem openTaken_some {d : Token} (h : openedToken s = some d) :
    openTaken s = (s.dropOpen.openSession d).finish := by
  unfold openTaken
  rw [h]

/-- FILTER as the HOST reads it (10_state.md R49). -/
theorem windowBytes_filter (hlen : s.filterLen.toNat ≤ 64) :
    windowBytes s 0x340 s.filterLen.toNat = s.buf filterBase s.filterLen.toNat :=
  windowBytes_eq (bufferFits_of (by omega)) s

theorem openFilter_none (h : s.filterLen = 0) : openFilter s = none := if_pos h

theorem openFilter_some (h : s.filterLen ≠ 0) :
    openFilter s = some (s.buf filterBase s.filterLen.toNat) := if_neg h

/-- The tokens that match are the attached ones that are eligible. -/
theorem mem_matching_iff (hlen : s.filterLen.toNat ≤ 64) (ts : List Token) (d : Token) :
    d ∈ matching s.params (openFilter s) ts ↔ d ∈ ts ∧ Eligible s d := by
  unfold matching Eligible
  rw [List.mem_filter, windowBytes_filter hlen]
  by_cases h : s.filterLen = 0
  · simp [openFilter_none h, show s.filterLen = 0#8 from h]
  · simp [openFilter_some h, show s.filterLen ≠ 0#8 from h, and_assoc]

theorem pickToken_nil (k : Nat) : pickToken [] k = none := rfl

/-- The counter runs round the list, so it always comes to one of its tokens. -/
theorem pickToken_mem {ts : List Token} (h : ts ≠ []) (k : Nat) : ∃ d ∈ ts, pickToken ts k = some d := by
  have hk : k % ts.length < ts.length := Nat.mod_lt _ (List.length_pos_iff.mpr h)
  exact ⟨ts[k % ts.length], List.getElem_mem hk, List.getElem?_eq_getElem hk⟩

/-- Each token of the list is where some counter comes to. -/
theorem exists_pickToken {ts : List Token} {d : Token} (h : d ∈ ts) : ∃ k, pickToken ts k = some d := by
  obtain ⟨k, hk, rfl⟩ := List.mem_iff_getElem.mp h
  refine ⟨k, ?_⟩
  unfold pickToken
  rw [Nat.mod_eq_of_lt hk, List.getElem?_eq_getElem hk]

theorem openedToken_of_refusal (h : (openAnswer s).pick = none) : openedToken s = none := by
  unfold openedToken
  rw [h]

theorem openedToken_of_pick {k : Nat} (h : (openAnswer s).pick = some k) :
    openedToken s = pickToken (matching s.params (openFilter s) (openAnswer s).attached) k := by
  unfold openedToken
  rw [h]

theorem openedToken_none (hlen : s.filterLen.toNat ≤ 64)
    (h : (openAnswer s).pick = none ∨ ∀ d ∈ (openAnswer s).attached, ¬ Eligible s d) :
    openedToken s = none := by
  cases hpick : (openAnswer s).pick with
  | none => exact openedToken_of_refusal hpick
  | some k =>
    have hnone : ∀ d ∈ (openAnswer s).attached, ¬ Eligible s d := h.resolve_left (by simp [hpick])
    have hempty : matching s.params (openFilter s) (openAnswer s).attached = [] :=
      List.eq_nil_iff_forall_not_mem.mpr fun d hd =>
        have ⟨hatt, hel⟩ := (mem_matching_iff hlen _ d).mp hd
        hnone d hatt hel
    rw [openedToken_of_pick hpick, hempty, pickToken_nil]

theorem openedToken_some (hlen : s.filterLen.toNat ≤ 64) {k : Nat} (hpick : (openAnswer s).pick = some k)
    (h : ∃ d ∈ (openAnswer s).attached, Eligible s d) :
    ∃ d ∈ (openAnswer s).attached, Eligible s d ∧ openedToken s = some d := by
  obtain ⟨e, hatt, hel⟩ := h
  have hne : matching s.params (openFilter s) (openAnswer s).attached ≠ [] :=
    List.ne_nil_of_mem ((mem_matching_iff hlen _ e).mpr ⟨hatt, hel⟩)
  obtain ⟨d, hd, hpicked⟩ := pickToken_mem hne k
  obtain ⟨hatt, hel⟩ := (mem_matching_iff hlen _ d).mp hd
  exact ⟨d, hatt, hel, (openedToken_of_pick hpick).trans hpicked⟩

end

/-- Of the window the opening of a session changes STATUS.OPEN. -/
theorem sameWindowBut_openSession (d : Token) (s : State) :
    SameWindowBut [(0x004, 1)] s (s.openSession d) :=
  sameWindowBut_of rfl
    (fun a _ ho => readRegister_openSession d s a (by rintro rfl; simp [inRanges] at ho))
    (fun _ _ _ _ => rfl)

theorem sameWindowBut_dropOpen (rs : List (Nat × Nat)) (s : State) : SameWindowBut rs s s.dropOpen :=
  sameWindowBut_of rfl (fun a _ _ => readRegister_dropOpen s a) (fun _ _ _ _ => rfl)

/-- Settles O29: each check in its order, then the token the ENVIRONMENT's counter comes to, which is one of
those that match, where there is one. -/
theorem openAttachesToAMatch : Obligations.OpenAttachesToAMatch := by
  refine fun s => ⟨fun hopen => ⟨_, exec_openDev_busy hopen, faulted_raise _ s⟩,
    fun ⟨hclosed, hlen⟩ => ⟨_, exec_openDev_badArgument hclosed hlen, faulted_raise _ s⟩,
    fun ⟨hclosed, hlen, hnone⟩ => ?notFound, fun k ⟨hclosed, hlen, hpick, hmatch⟩ => ?attached⟩
  case notFound =>
    refine ⟨_, exec_openDev_taken hclosed hlen, ?_⟩
    rw [openTaken_none (openedToken_none hlen hnone)]
    exact faulted_raise _ _
  case attached =>
    obtain ⟨d, hatt, hel, hd⟩ := openedToken_some hlen hpick hmatch
    refine ⟨_, d, exec_openDev_taken hclosed hlen, hatt, hel, ?_⟩
    rw [openTaken_some hd]
    have hwindow : SameWindowBut [(0x004, 1)] s (s.dropOpen.openSession d).finish :=
      ((sameWindowBut_dropOpen _ s).trans (sameWindowBut_openSession d _)).trans (ended_finish _).window
    exact ⟨rfl, rfl, rfl, rfl, hwindow, { KeepsLatch.refl s with }, rfl, rfl, rfl⟩

/-- Settles O30: the counter of that token's place among the matching ones. -/
theorem openMayTakeEveryMatch : Obligations.OpenMayTakeEveryMatch := by
  intro s ts d hclosed hlen hd hel
  obtain ⟨k, hk⟩ := exists_pickToken ((mem_matching_iff hlen ts d).mpr ⟨hd, hel⟩)
  refine ⟨k, fun more => ⟨_, exec_openDev_taken hclosed hlen, ?_⟩⟩
  rw [openTaken_some ((openedToken_of_pick rfl).trans hk)]
  exact ⟨rfl, rfl⟩

/-! ### The operations that need a session (R138) -/

theorem needSession_open {s : State} (h : s.status.opened = true) (k : State → State) :
    needSession k s = k s := if_pos h

theorem needSession_closed {s : State} (h : s.status.opened = false) (k : State → State) :
    needSession k s = s.raise .noSession := if_neg (Bool.eq_false_iff.mp h)

/-- An operation whose first step is the session check faults where no session is open. -/
theorem noSession_of_needSession {i : Instr} {s : State} {k : State → State}
    (hclosed : s.status.opened = false) (h : exec i s = .next (needSession k s)) :
    ∃ t, exec i s = .next t ∧ Faulted .noSession s t :=
  ⟨_, by rw [h, needSession_closed hclosed], faulted_raise _ s⟩

section
variable {s : State} (h : s.phase = .ready .start)
include h

theorem exec_recv_start (a : Byte) : exec (.recv a) s = .next (recvStart a s) := by
  simp only [exec, execRecv, h]

theorem exec_recvRetry_start (n : Byte) : exec (.recvRetry n) s = .next (recvRetryStart s) := by
  simp only [exec, execRecvRetry, h]

theorem exec_configure_start : exec .configure s = .next (configureStart s) := by
  simp only [exec, execConfigure, h]

theorem exec_rngStream_start : exec .rngStream s = .next (rngStart s) := by
  simp only [exec, execRngStream, h]

theorem exec_seedStream_start : exec .seedStream s = .next (seedStart s) := by
  simp only [exec, execSeedStream, h]

theorem exec_wipe_start : exec .wipe s = .next (wipeStart s) := by
  simp only [exec, execWipe, h]

end

/-- Settles O31: the first step of each of the ten is the session check, CONFIGURE's after its prologue. -/
theorem linkOperationsNeedASession : Obligations.LinkOperationsNeedASession := by
  intro s i hclosed hstart
  refine ⟨?checkFirst, ?configure⟩
  case checkFirst =>
    rintro (⟨f, c, n, rfl⟩ | ⟨a, rfl⟩ | ⟨n, rfl⟩ | rfl | rfl | rfl | rfl | rfl | rfl)
    · exact noSession_of_needSession hclosed rfl
    · exact noSession_of_needSession hclosed (exec_recv_start hstart a)
    · exact noSession_of_needSession hclosed (exec_recvRetry_start hstart n)
    · exact noSession_of_needSession hclosed (exec_rngStream_start hstart)
    · exact noSession_of_needSession hclosed (exec_seedStream_start hstart)
    · exact noSession_of_needSession hclosed (exec_wipe_start hstart)
    · exact noSession_of_needSession hclosed rfl
    · exact noSession_of_needSession hclosed rfl
    · exact noSession_of_needSession hclosed rfl
  case configure =>
    rintro rfl
    refine ⟨_, exec_configure_start hstart, ?_⟩
    unfold configureStart
    rw [needSession_closed (s := s.beginConfigure) hclosed]
    exact ⟨rfl, rfl, faulted_raise _ s.beginConfigure⟩

end Sys2Proof.Machine
end

/-! ## SEND (43_transport.md R141) -/

section
namespace Sys2Proof.Machine

/-- A form SEND knows and a payload length that form carries (30_encoding.md R86, R87). -/
def SendFits (bcnt : Bool) (form n : Byte) : Prop :=
  (form = 0 ∧ n.toNat ≤ shortMax) ∨ (form = 1 ∧ n.toNat ≤ longMax bcnt)

/-- The meaningful bytes of the frame of a form, 0 being the short one (30_encoding.md R86, R87). -/
def formFrame (s : State) (form c : Byte) (p : List Byte) : List Byte :=
  if form = 0 then shortFrame c p else longFrame s c p

theorem formFrame_zero (s : State) (c : Byte) (p : List Byte) : formFrame s 0 c p = shortBytes c p := rfl

theorem formFrame_one (s : State) (c : Byte) {p : List Byte} (h : p.length < 256) :
    formFrame s 1 c p = longBytes s.params.longBcnt c p := (longFrame_eq s c h).symm

/-- PAYLOAD as the HOST reads it (10_state.md R41). -/
theorem windowBytes_payload (s : State) {n : Nat} (h : n ≤ 64) :
    windowBytes s 0x0C0 n = s.buf payloadBase n :=
  windowBytes_eq (bufferFits_of (by omega)) s

section
variable {s : State} {form n : Byte}

theorem SendFits.le (h : SendFits s.params.longBcnt form n) : n.toNat ≤ shortMax := by
  obtain ⟨-, hn⟩ | ⟨-, hn⟩ := h
  · exact hn
  · exact hn.trans (by cases s.params.longBcnt <;> decide)

theorem sendOpen_fits (h : SendFits s.params.longBcnt form n) (c : Byte) :
    sendOpen form c n s = afterTransmit (txAnswer s) State.finish (sendFrame form c n s) := by
  unfold sendOpen
  obtain ⟨rfl, hn⟩ | ⟨rfl, hn⟩ := h
  · rw [if_neg (by decide), if_neg (fun hlong => absurd hn (Nat.not_le.mpr hlong.2)), if_neg (by simp)]
  · rw [if_neg (by decide), if_neg (by simp), if_neg (fun hlong => absurd hn (Nat.not_le.mpr hlong.2))]

/-- Whichever of the checks fails first, the fault is the same. -/
theorem sendOpen_not_fits (h : ¬ SendFits s.params.longBcnt form n) (c : Byte) :
    sendOpen form c n s = s.raise .badArgument := by
  unfold sendOpen
  split
  · rfl
  next hform =>
    split
    · rfl
    next hshort =>
      rw [if_pos]
      have hone : form ≠ 0 → form = 1 := fun hne => by
        rw [ne_eq, BitVec.toNat_eq] at hne
        rw [BitVec.toNat_eq]
        simp at hne ⊢
        omega
      have hne : form ≠ 0 := fun e => h (.inl ⟨e, Nat.le_of_not_lt fun hn => hshort ⟨e, hn⟩⟩)
      exact ⟨hone hne, Nat.lt_of_not_le fun hn => h (.inr ⟨hone hne, hn⟩)⟩

/-- SEND's frame is the one of its form, command byte and payload. -/
theorem sendFrame_eq (h : SendFits s.params.longBcnt form n) (c : Byte) :
    sendFrame form c n s = s.transmit (formFrame s form c (windowBytes s 0x0C0 n.toNat)) := by
  have hlen := h.le
  rw [windowBytes_payload s (hlen.trans (by decide))]
  obtain ⟨rfl, -⟩ | ⟨rfl, -⟩ := h
  · rfl
  · rw [formFrame_one s c (by rw [buf_length]; exact hlen.trans_lt (by decide))]
    rfl

/-- A frame that fits its form fits a packet (30_encoding.md R85). -/
theorem formFrame_length_le (h : SendFits s.params.longBcnt form n) (c : Byte) {p : List Byte}
    (hp : p.length = n.toNat) : (formFrame s form c p).length ≤ 64 := by
  have hlen := h.le
  obtain ⟨rfl, hn⟩ | ⟨rfl, hn⟩ := h
  · rw [formFrame_zero, shortBytes_length]
    unfold shortMax at hn
    omega
  · rw [formFrame_one s c (by rw [hp]; exact hlen.trans_lt (by decide))]
    exact longBytes_length_le c (hp.trans_le hn)

@[simp] theorem windowBytes_length (s : State) (base n : Nat) : (windowBytes s base n).length = n := by
  simp [windowBytes]

/-- SEND with a session open and arguments that fit: one Transmit, then what its outcome asks for. -/
theorem exec_send_fits (hopen : s.status.opened = true) (h : SendFits s.params.longBcnt form n) (c : Byte) :
    exec (.send form c n) s =
      .next (afterTransmit (txAnswer s) State.finish
        (s.transmit (formFrame s form c (windowBytes s 0x0C0 n.toNat)))) := by
  rw [← sendFrame_eq h c, ← sendOpen_fits h c, ← needSession_open hopen (sendOpen form c n)]
  rfl

theorem transmitted_formFrame (h : SendFits s.params.longBcnt form n) (c : Byte) :
    Transmitted (formFrame s form c (windowBytes s 0x0C0 n.toNat)) (txAnswer s) s
      (s.transmit (formFrame s form c (windowBytes s 0x0C0 n.toNat))) :=
  transmitted_transmit (formFrame_length_le h c (windowBytes_length s _ _)) s

end

/-- Settles O32: the checks in their order, then the Transmit and what its outcome asks for. -/
theorem sendTransmitsTheFrame : Obligations.SendTransmitsTheFrame := by
  intro s form c n
  refine ⟨fun hclosed => noSession_of_needSession (k := sendOpen form c n) hclosed rfl,
    fun hopen hfits => ⟨_, congrArg Host.Outcome.next ((needSession_open hopen _).trans
      (sendOpen_not_fits hfits c)), faulted_raise _ s⟩,
    fun hopen hfits hsent =>
      ⟨_, _, hsent ▸ transmitted_formFrame hfits c, exec_send_fits hopen hfits c, ?ended⟩,
    fun hopen hfits herror =>
      ⟨_, _, herror ▸ transmitted_formFrame hfits c, exec_send_fits hopen hfits c, ?faulted⟩⟩
  case ended =>
    rw [hsent]
    exact ended_finish _
  case faulted =>
    rw [herror]
    exact faulted_raise _ _

/-! ### A placed wire frame (30_encoding.md R85, assumption 4) -/

/-- The bytes are those of some short frame: the long form is one of command 0xFF with three more of the
channel-broadcast bytes in its payload (30_encoding.md R86, R87). -/
def IsFrame (bs : List Byte) : Prop := ∃ c pl, bs = shortBytes c pl ∧ pl.length ≤ shortMax

theorem isFrame_shortBytes (c : Byte) {pl : List Byte} (h : pl.length ≤ shortMax) :
    IsFrame (shortBytes c pl) := ⟨c, pl, rfl, h⟩

theorem isFrame_longBytes {bcnt : Bool} (c : Byte) {pl : List Byte} (h : pl.length ≤ longMax bcnt) :
    IsFrame (longBytes bcnt c pl) := by
  refine ⟨0xFF, 0xFF :: 0xFF :: 0xFF :: c :: (bcntBytes bcnt pl.length ++ pl), rfl, ?_⟩
  have hlen := longBytes_length_le c h
  simp only [longBytes, List.length_cons] at hlen ⊢
  unfold shortMax
  omega

theorem isFrame_encode (p : Params) {i : Instr} (hc : i.isCommand = false) (hw : i.wellFormed = true) :
    IsFrame (encode p i) := by
  cases i with
  | wireIsBuild | wireGetSerial | wireIsConfigured | wireGenKey | wireBootloaderShort
  | wireBootloaderDestroyShort => exact isFrame_shortBytes _ (Nat.zero_le _)
  | wireLock hi lo => exact isFrame_shortBytes _ (by simp [shortMax])
  | wireLoadTransKey k | wireLoadWriteKey k | wireLoadAttestKey k =>
    exact isFrame_shortBytes _ ((beq_iff_eq.mp hw).trans_le (by decide))
  | wireBootloaderLong | wireBootloaderDestroyLong | wireRng | wireWipe | wireWink =>
    exact isFrame_longBytes _ (Nat.zero_le _)
  | wireSeed k =>
    simp [Instr.wellFormed] at hw
    exact isFrame_longBytes _ (le_longMax (hw.2.trans (by decide)) _)
  | _ => nomatch hc

/-- A payload's length is the value of the byte that holds it (30_encoding.md R79). -/
theorem toNat_payloadLength {n : Nat} (h : n ≤ shortMax) : (BitVec.ofNat 8 n).toNat = n := by
  rw [BitVec.toNat_ofNat, Nat.mod_eq_of_lt (h.trans_lt (by decide))]

/-- A frame is placed as the SEND of its bytes, as a long one where they can be read so. -/
theorem placeFrame_eq {s : State} (hb : s.params.longBcnt = false) {bs : List Byte} (h : IsFrame bs) :
    ∃ form c p, placeFrame bs s = placeSend form c p s ∧ formFrame s form c p = bs ∧ p.length ≤ shortMax ∧
      SendFits s.params.longBcnt form (BitVec.ofNat 8 p.length) := by
  obtain ⟨c, pl, rfl, hlen⟩ := h
  unfold placeFrame shortBytes
  split
  next c' rest heq =>
    obtain ⟨rfl, rfl⟩ : c = 0xFF#8 ∧ pl = 0xFF#8 :: 0xFF#8 :: 0xFF#8 :: c' :: rest := by
      simpa using heq
    have hrest : rest.length ≤ longMax false := by
      simp only [List.length_cons, shortMax] at hlen
      unfold longMax
      simp
      omega
    have hshort : rest.length ≤ shortMax := hrest.trans (by decide)
    refine ⟨1, c', rest, by rw [hb]; rfl, ?_, hshort, .inr ⟨rfl, ?_⟩⟩
    · rw [formFrame_one s c' (hshort.trans_lt (by decide)), hb]
      rfl
    · rw [toNat_payloadLength hshort, hb]
      exact hrest
  next c' p' _ heq =>
    obtain ⟨rfl, rfl⟩ : c = c' ∧ pl = p' := by simpa using heq
    exact ⟨0, c, pl, rfl, rfl, hlen, .inl ⟨rfl, (toNat_payloadLength hlen).trans_le hlen⟩⟩
  next hno => exact absurd rfl (hno c pl)

/-- The state the placed SEND starts from: a session open, the payload loaded, the operation issued. -/
def sendStart (form c : Byte) (p : List Byte) (s : State) : State :=
  State.issue 0x42
    { s.setBuf payloadBase p with
      session := some { vid := s.params.vid, pid := s.params.pid, serial := [] }
      status := { s.status with opened := true }
      argA := form, argB := c, argC := BitVec.ofNat 8 p.length }

section
variable {s : State} {form : Byte} {p : List Byte} (hlen : p.length ≤ shortMax)
include hlen

/-- The HOST reads the payload back where it was loaded, as long as ARG_C says (10_state.md R41). -/
theorem windowBytes_sendStart (c : Byte) :
    windowBytes (sendStart form c p s) 0x0C0 (BitVec.ofNat 8 p.length).toNat = p := by
  rw [toNat_payloadLength hlen, windowBytes_payload _ (hlen.trans (by decide))]
  exact Memory.readBytes_writeBytes s.mem payloadBase p

variable (hfits : SendFits s.params.longBcnt form (BitVec.ofNat 8 p.length)) (c : Byte)
include hfits

/-- The step after the placing is the SEND's only one. -/
theorem step_placeSend :
    step (placeSend form c p s) =
      .next (afterTransmit (txAnswer s) State.finish
        ((sendStart form c p s).transmit (formFrame s form c p))) := by
  have hexec := exec_send_fits (s := sendStart form c p s) rfl hfits c
  rw [windowBytes_sendStart hlen] at hexec
  exact (step_placeCommand _ _ _ _ _).trans hexec

theorem transmitted_sendStart :
    Transmitted (formFrame s form c p) (txAnswer s) (sendStart form c p s)
      ((sendStart form c p s).transmit (formFrame s form c p)) := by
  have htransmitted := transmitted_formFrame (s := sendStart form c p s) hfits c
  rwa [windowBytes_sendStart hlen] at htransmitted

end

/-- What follows a SEND's Transmit ends the operation, with ERR where the outcome is a link error, and changes
neither the frame nor the logs. -/
theorem afterTransmit_finish (o : TxOutcome) (s : State) :
    (afterTransmit o State.finish s).status.err = (s.status.err || o == .linkError) ∧
      (afterTransmit o State.finish s).phase = .idle ∧
      SameWindowBut [(0x004, 3)] s (afterTransmit o State.finish s) ∧
      KeepsInternals s (afterTransmit o State.finish s) := by
  cases o with
  | sent =>
    have hend := ended_finish s
    exact ⟨(Bool.or_false _).symm, rfl, hend.window.mono (fun a => by simp [inRanges]; omega),
      hend.internals⟩
  | linkError =>
    have hfault := faulted_raise .linkError s
    exact ⟨(Bool.or_true _).symm, rfl, hfault.window, hfault.internals⟩

/-- Settles O8: the frame's bytes are those of the SEND that is placed, and the next step runs it. -/
theorem placedFrameIsTransmitted : Obligations.PlacedFrameIsTransmitted := by
  intro s nbits w i hnbits hb hc hw hbytes
  obtain ⟨form, c, p, hplace, hframe, hlen, hfits⟩ := placeFrame_eq hb (isFrame_encode s.params hc hw)
  have hplaced : s.withFetchWord nbits w = placeSend form c p s := by
    rw [← hplace, ← hbytes]
    exact if_neg hnbits
  rw [hplaced, ← hframe]
  have htransmitted := transmitted_sendStart hlen hfits c
  obtain ⟨herr, hphase, hwindow, hkeeps⟩ :=
    afterTransmit_finish (txAnswer s) ((sendStart form c p s).transmit (formFrame s form c p))
  refine ⟨_, step_placeSend hlen hfits c, hkeeps.logs.linkLog.trans htransmitted.linkLog, ?frame, herr,
    hphase, hkeeps.latch.sched.trans htransmitted.control.latch.sched⟩
  case frame =>
    rw [← htransmitted.frame]
    exact hwindow.windowBytes 0x040 64 (by decide) fun a _ _ => by simp [inRanges]; omega

end Sys2Proof.Machine
end

/-! ## RECV (43_transport.md R142) -/

section
namespace Sys2Proof.Machine

/-- Without a delivery a finite wait receives its timeout (70_reset_and_hazards.md R197, assumption 6). -/
theorem NoDelivery.delivers {lim : Timeout} {s : State} (h : NoDelivery lim s) (hfinite : lim ≠ .inf) :
    Delivers lim .timeout s := .inr ⟨h, hfinite, rfl⟩

theorem recvTimeout_some {a : Byte} (h : a.toNat ≤ 1) :
    recvTimeout a = some (if a = 0 then .cfg else .wipe) := by
  unfold recvTimeout
  split
  · rfl
  next hne =>
    rw [BitVec.toNat_eq] at hne
    rw [if_pos]
    rw [BitVec.toNat_eq]
    simp at hne ⊢
    omega

theorem recvTimeout_none {a : Byte} (h : 1 < a.toNat) : recvTimeout a = none := by
  unfold recvTimeout
  rw [if_neg (by rintro rfl; simp at h), if_neg (by rintro rfl; simp at h)]

section
variable {s : State}

theorem recvStart_waits (hopen : s.status.opened = true) {a : Byte} {lim : Timeout}
    (h : recvTimeout a = some lim) : recvStart a s = (s.setTries 1).awaitFor lim := by
  unfold recvStart
  rw [needSession_open hopen]
  simp only [h]

theorem recvStart_badArgument (hopen : s.status.opened = true) {a : Byte} (h : recvTimeout a = none) :
    recvStart a s = s.raise .badArgument := by
  unfold recvStart
  rw [needSession_open hopen]
  simp only [h]

variable {lim : Timeout} (hphase : s.phase = .await lim .afterAwait)
include hphase

theorem exec_recv_await (a : Byte) : exec (.recv a) s = .next (recvGoOn lim s) := by
  simp only [exec, execRecv, hphase]

/-- Whatever RECV receives it captures, and ends. -/
theorem exec_recv_delivers {o : RxOutcome} (h : Delivers lim o s) (a : Byte) :
    exec (.recv a) s = .next (s.receive o).finish := by
  rw [exec_recv_await hphase]
  unfold recvGoOn
  rw [h.delivered]

end

/-- Settles O35: the start checks the session, then argument A; from the wait on every outcome is captured
and ends the operation. -/
theorem recvCapturesTheOutcome : Obligations.RecvCapturesTheOutcome := by
  refine fun s a => ⟨fun hstart hclosed => noSession_of_needSession hclosed (exec_recv_start hstart a),
    fun hstart hopen => ⟨fun ha => ?waits, fun ha => ?badArgument⟩,
    fun lim o hphase hdel => ⟨_, _, hdel.captured, exec_recv_delivers hphase hdel a, ended_finish _⟩,
    fun lim hphase hfinite hnone => ?timeout⟩
  case waits => rw [exec_recv_start hstart, recvStart_waits hopen (recvTimeout_some ha)]; rfl
  case badArgument =>
    refine ⟨_, exec_recv_start hstart a, ?_⟩
    rw [recvStart_badArgument hopen (recvTimeout_none ha)]
    exact faulted_raise _ s
  case timeout =>
    have hdel := hnone.delivers hfinite
    exact ⟨_, _, hdel.captured, exec_recv_delivers hphase hdel a, ended_finish _, rfl⟩

end Sys2Proof.Machine
end

/-! ## RECV_RETRY (43_transport.md R143, R144) -/

section
namespace Sys2Proof.Machine

/-! ### One attempt (R143) -/

/-- An attempt fails by a timeout or a link error. -/
def AttemptFailed (o : RxOutcome) : Prop := o = .timeout ∨ o = .linkError

theorem retryCount_toNat (n : Byte) : (retryCount n).toNat = if n = 0 then 5 else n.toNat := by
  unfold retryCount
  split <;> rfl

section
variable {n : Byte} {s : State}

theorem exec_recvRetry_open (hstart : s.phase = .ready .start) (hopen : s.status.opened = true) (n : Byte) :
    exec (.recvRetry n) s = .next (s.attempt 1) := by
  rw [exec_recvRetry_start hstart]
  exact congrArg Host.Outcome.next (needSession_open hopen _)

theorem recvRetryFailed_again (h : s.att.toNat < (retryCount n).toNat) :
    recvRetryFailed n s = s.attempt (s.att + 1) := if_pos h

theorem recvRetryFailed_last (h : (retryCount n).toNat ≤ s.att.toNat) : recvRetryFailed n s = s.finish :=
  if_neg (Nat.not_lt.mpr h)

variable {lim : Timeout} (hphase : s.phase = .await lim .afterAwait)
include hphase

theorem exec_recvRetry_await (n : Byte) : exec (.recvRetry n) s = .next (recvRetryGoOn n lim s) := by
  simp only [exec, execRecvRetry, hphase]

theorem exec_recvRetry_response {b : List Byte} (h : Delivers lim (.data b) s) (n : Byte) :
    exec (.recvRetry n) s = .next (s.receive (.data b)).finish := by
  rw [exec_recvRetry_await hphase]
  unfold recvRetryGoOn
  rw [h.delivered]

theorem exec_recvRetry_failure {o : RxOutcome} (ho : AttemptFailed o) (h : Delivers lim o s) (n : Byte) :
    exec (.recvRetry n) s = .next (recvRetryFailed n (s.receive o)) := by
  rw [exec_recvRetry_await hphase]
  unfold recvRetryGoOn
  rw [h.delivered]
  obtain rfl | rfl := ho <;> rfl

/-- A failure before the last attempt starts the next one. -/
theorem exec_recvRetry_again {o : RxOutcome} (ho : AttemptFailed o) (h : Delivers lim o s)
    (hatt : s.att.toNat < (retryCount n).toNat) :
    exec (.recvRetry n) s = .next ((s.receive o).attempt (s.att + 1)) := by
  rw [exec_recvRetry_failure hphase ho h, recvRetryFailed_again (s := s.receive o) hatt]
  rfl

/-- A failure of the last attempt ends the operation. -/
theorem exec_recvRetry_last {o : RxOutcome} (ho : AttemptFailed o) (h : Delivers lim o s)
    (hatt : (retryCount n).toNat ≤ s.att.toNat) :
    exec (.recvRetry n) s = .next (s.receive o).finish := by
  rw [exec_recvRetry_failure hphase ho h, recvRetryFailed_last (s := s.receive o) hatt]

/-- A response ends the operation, and so does any outcome of the last attempt. -/
theorem exec_recvRetry_ends {o : RxOutcome} (h : Delivers lim o s)
    (hend : (∃ b, o = .data b) ∨ (retryCount n).toNat ≤ s.att.toNat) :
    exec (.recvRetry n) s = .next (s.receive o).finish := by
  cases o with
  | data b => exact exec_recvRetry_response hphase h n
  | timeout => exact exec_recvRetry_last hphase (.inl rfl) h (hend.resolve_left nofun)
  | linkError => exact exec_recvRetry_last hphase (.inr rfl) h (hend.resolve_left nofun)

end

/-- Settles O36: the outcome of an attempt and the number of it decide between the end and the next one. -/
theorem recvRetryStepByStep : Obligations.RecvRetryStepByStep := by
  intro s n
  simp only [← retryCount_toNat]
  refine ⟨fun hstart hclosed => noSession_of_needSession hclosed (exec_recvRetry_start hstart n),
    fun hstart hopen => exec_recvRetry_open hstart hopen n,
    fun o hphase hdel =>
      ⟨fun hend => ⟨_, _, hdel.captured, exec_recvRetry_ends hphase hdel hend, ended_finish _⟩,
      fun ⟨ho, hatt⟩ => ⟨_, hdel.captured, exec_recvRetry_again hphase ho hdel hatt⟩⟩,
    fun hphase hnone => ?timeout⟩
  case timeout =>
    have hdel := hnone.delivers nofun
    obtain hatt | hatt := Nat.lt_or_ge s.att.toNat (retryCount n).toNat
    · exact ⟨_, exec_recvRetry_again hphase (.inl rfl) hdel hatt, rfl, rfl, rfl, rfl, rfl⟩
    · exact ⟨_, exec_recvRetry_ends hphase hdel (.inr hatt), rfl, rfl, rfl, rfl, rfl⟩

/-! ### A run of attempts (R144) -/

theorem coreRuns_trans {m n : Nat} {s t u : State} (h : coreRuns m s t) (h' : coreRuns n t u) :
    coreRuns (m + n) s u := by
  induction m generalizing s with
  | zero =>
    obtain rfl := h
    rwa [Nat.zero_add]
  | succ m ih =>
    obtain ⟨v, hstep, hrest⟩ := h
    rw [Nat.succ_add]
    exact ⟨v, hstep, ih hrest⟩

theorem coreRuns_one {s t : State} (h : coreStep s = .next t) : coreRuns 1 s t := ⟨t, h, rfl⟩

/-- RECV_RETRY with argument `n` waits in its attempt `k`. -/
structure InAttempt (n : Byte) (k : Nat) (s : State) : Prop where
  latch : latched s = .recvRetry n
  phase : s.phase = .await .cfg .afterAwait
  att : s.att.toNat = k
  tries : s.tries = s.att

/-- From `s` to `u` these outcomes were delivered, and of STATUS no flag but TMO changed. -/
structure Heard (os : List RxOutcome) (s u : State) : Prop where
  answers : s.env.rx = os.map TokenAnswer.deliver ++ u.env.rx
  linkLog : u.linkLog = s.linkLog ++ os.map LinkEvent.rx
  status : ∀ b, { u.status with tmo := b } = { s.status with tmo := b }

theorem Heard.refl (s : State) : Heard [] s s := ⟨rfl, (List.append_nil _).symm, fun _ => rfl⟩

theorem Heard.trans {os os' : List RxOutcome} {s u v : State} (h : Heard os s u) (h' : Heard os' u v) :
    Heard (os ++ os') s v where
  answers := by rw [h.answers, h'.answers, List.map_append, List.append_assoc]
  linkLog := by rw [h'.linkLog, h.linkLog, List.map_append, List.append_assoc]
  status b := (h'.status b).trans (h.status b)

section
variable {n : Byte} {k : Nat} {s : State} {o : RxOutcome} {rest : List TokenAnswer}

theorem tokenAnswer_of_env (h : s.env.rx = .deliver o :: rest) : tokenAnswer s = .deliver o := by
  unfold tokenAnswer
  rw [h]

/-- A failure is an outcome that a wait of 1000 ms admits (43_transport.md R136). -/
theorem enabledAt_of_attemptFailed (ho : AttemptFailed o) : enabledAt .cfg o = true := by
  obtain rfl | rfl := ho <;> rfl

/-- What the capture of a failure shows (43_transport.md R137). -/
theorem capture_of_attemptFailed (ho : AttemptFailed o) :
    resultOf o = (if o = .timeout then 0x00 else 0x02) ∧ responseBytes o = [] ∧ tmoOf o = true := by
  obtain rfl | rfl := ho <;> exact ⟨rfl, rfl, rfl⟩

theorem delivers_of_env (henv : s.env.rx = .deliver o :: rest) (he : enabledAt .cfg o = true) :
    Delivers .cfg o s := .inl ⟨tokenAnswer_of_env henv, he⟩

theorem heard_receive (henv : s.env.rx = .deliver o :: rest) : Heard [o] s (s.receive o) where
  answers := by simp [henv]
  linkLog := rfl
  status _ := rfl

theorem InAttempt.coreStep_eq (h : InAttempt n k s) : coreStep s = exec (.recvRetry n) s := by
  rw [coreStep_busy (by rw [h.phase]; nofun), h.latch]

/-- The start of the run: attempt 1, with nothing heard. -/
theorem inAttempt_attempt_one (h : latched s = .recvRetry n) : InAttempt n 1 (s.attempt 1) :=
  ⟨h, rfl, rfl, rfl⟩

/-- A failed attempt before the last leads into the next one. -/
theorem InAttempt.fails (h : InAttempt n k s) (hk : k < (retryCount n).toNat) (ho : AttemptFailed o)
    (henv : s.env.rx = .deliver o :: rest) :
    ∃ u, coreStep s = .next u ∧ InAttempt n (k + 1) u ∧ Heard [o] s u := by
  have hatt : s.att.toNat < (retryCount n).toNat := by rwa [h.att]
  have hnext : (s.att + 1).toNat = k + 1 := by
    have := (retryCount n).isLt
    rw [BitVec.toNat_add, h.att]
    simp
    omega
  have hdel := delivers_of_env henv (enabledAt_of_attemptFailed ho)
  exact ⟨(s.receive o).attempt (s.att + 1),
    h.coreStep_eq.trans (exec_recvRetry_again h.phase ho hdel hatt),
    ⟨h.latch, rfl, hnext, rfl⟩, { heard_receive henv with }⟩

/-- The outcome that ends the run: a response, or the last attempt's. -/
theorem InAttempt.ends (h : InAttempt n k s) (henv : s.env.rx = .deliver o :: rest)
    (he : enabledAt .cfg o = true) (hend : (∃ b, o = .data b) ∨ (retryCount n).toNat ≤ k) :
    coreRuns 1 s (s.receive o).finish :=
  coreRuns_one (h.coreStep_eq.trans
    (exec_recvRetry_ends h.phase (delivers_of_env henv he) (by rwa [h.att])))

end

/-- As many failures as there are attempts left after this one lead into the attempt after them. -/
theorem InAttempt.failures {n : Byte} {fails : List RxOutcome} {k : Nat} {s : State}
    {more : List TokenAnswer} (h : InAttempt n k s) (hfails : ∀ o ∈ fails, AttemptFailed o)
    (hk : k + fails.length ≤ (retryCount n).toNat)
    (henv : s.env.rx = fails.map TokenAnswer.deliver ++ more) :
    ∃ u, coreRuns fails.length s u ∧ InAttempt n (k + fails.length) u ∧ Heard fails s u := by
  induction fails generalizing k s with
  | nil => exact ⟨s, rfl, h, .refl s⟩
  | cons o os ih =>
    obtain ⟨ho, hos⟩ := List.forall_mem_cons.mp hfails
    rw [List.length_cons] at hk
    obtain ⟨v, hstep, hv, hheard⟩ := h.fails (by omega) ho henv
    have hrest : v.env.rx = os.map TokenAnswer.deliver ++ more :=
      (List.cons.inj (hheard.answers.symm.trans henv)).2
    obtain ⟨u, hruns, hu, hheard'⟩ := ih hv hos (by omega) hrest
    refine ⟨u, ⟨v, hstep, hruns⟩, ?_, hheard.trans hheard'⟩
    rwa [List.length_cons, Nat.add_comm os.length, ← Nat.add_assoc]

/-- A whole run: the start, the failures, and the outcome that ends it. -/
theorem recvRetry_runs {s : State} {fails : List RxOutcome} {o : RxOutcome} {more : List TokenAnswer}
    (hstart : s.phase = .ready .start) (hopl : s.opl = 0x44) (hopen : s.status.opened = true)
    (hfails : ∀ o ∈ fails, AttemptFailed o) (hlt : fails.length < (retryCount s.al).toNat)
    (he : enabledAt .cfg o = true)
    (hend : (∃ b, o = .data b) ∨ (retryCount s.al).toNat = fails.length + 1)
    (henv : s.env.rx = fails.map TokenAnswer.deliver ++ .deliver o :: more) :
    ∃ u : State, coreRuns (fails.length + 2) s (u.receive o).finish ∧ u.tries.toNat = fails.length + 1 ∧
      u.env.rx = .deliver o :: more ∧ Heard (fails ++ [o]) s (u.receive o) := by
  have hlatch : latched s = .recvRetry s.al := latched_of_opl hopl
  have hfirst : coreStep s = .next (s.attempt 1) := by
    rw [coreStep_busy (by rw [hstart]; nofun), hlatch, exec_recvRetry_open hstart hopen]
  obtain ⟨u, hruns, hu, hheard⟩ :=
    (inAttempt_attempt_one hlatch).failures hfails (by omega) henv
  have hlast : u.env.rx = .deliver o :: more :=
    List.append_cancel_left (hheard.answers.symm.trans henv)
  have hfinal := hu.ends hlast he (hend.imp_right fun h => by omega)
  refine ⟨u, ⟨_, hfirst, coreRuns_trans hruns hfinal⟩, ?_, hlast, ?_⟩
  · rw [hu.tries, hu.att, Nat.add_comm]
  · exact Heard.trans { hheard with } (heard_receive hlast)

/-- STATUS at the end of a run is the end's, with TMO as the last outcome sets it. -/
theorem Heard.status_finish {os : List RxOutcome} {o : RxOutcome} {s u : State}
    (h : Heard os s (u.receive o)) :
    (u.receive o).finish.status =
      { s.status with busy := false, done := true, waitin := false, tmo := tmoOf o } :=
  congrArg Status.onEnd (h.status (tmoOf o))

/-- Settles O37: a response ends the run after the failures before it, and the last of as many failures as
there are attempts ends it too. -/
theorem recvRetryWithFailures : Obligations.RecvRetryWithFailures := by
  intro s fails more
  rw [← retryCount_toNat]
  refine fun hstart hopl hopen hfails =>
    ⟨fun b hlt hmin hmax henv => ?response, fun last hall hlast henv => ?failure⟩
  case response =>
    have he : enabledAt .cfg (.data b) = true := by simp [enabledAt, hmin, hmax]
    obtain ⟨u, hruns, htries, hrx, hheard⟩ :=
      recvRetry_runs hstart hopl hopen hfails hlt he (.inl ⟨b, rfl⟩) henv
    have hcaptured := (delivers_of_env hrx he).captured
    refine ⟨_, hruns, rfl, htries, rxLen_receive _ u hmax, ?_, rfl, hheard.status_finish, ?_⟩
    · rw [windowBytes_finish _ _ _ (by decide) (by decide)]
      exact hcaptured.response
    · rw [List.append_assoc]
      simpa using hheard.linkLog
  case failure =>
    obtain ⟨init, rfl⟩ := List.getLast?_eq_some_iff.mp hlast
    obtain ⟨hinit, hfailed⟩ := List.forall_mem_append.mp hfails
    have ho : AttemptFailed last := hfailed last (List.mem_singleton.mpr rfl)
    rw [List.length_append, List.length_singleton] at hall
    rw [List.map_append, List.append_assoc] at henv
    obtain ⟨u, hruns, htries, hrx, hheard⟩ := recvRetry_runs hstart hopl hopen hinit (by omega)
      (enabledAt_of_attemptFailed ho) (.inr hall.symm) henv
    obtain ⟨hresult, hbytes, htmo⟩ := capture_of_attemptFailed ho
    rw [List.length_append]
    refine ⟨_, hruns, hresult, htries.trans hall, ?_, rfl, by simp [hrx], ?_, hheard.linkLog⟩
    · simp [hbytes]
    · rw [hheard.status_finish, htmo]

end Sys2Proof.Machine
end

/-! ## PATCH (44_sequencer.md R145) -/

section
namespace Sys2Proof.Machine

/-- SERIAL as the HOST reads it (10_state.md R43). -/
theorem windowBytes_serial (s : State) {n : Nat} (h : n ≤ 128) :
    windowBytes s 0x180 n = s.buf serialBase n :=
  windowBytes_eq (bufferFits_of (by omega)) s

theorem exec_patch_fits {s : State} (h : s.serialLen.toNat ≤ 128) :
    exec .patch s = .next (s.setBuf cfgBase (patchedBlob s)).finish :=
  congrArg Host.Outcome.next (if_neg (Nat.not_lt.mpr h))

theorem exec_patch_badArgument {s : State} (h : 128 < s.serialLen.toNat) :
    exec .patch s = .next (s.raise .badArgument) :=
  congrArg Host.Outcome.next (if_pos h)

/-- A blob of 128 bytes fills CFG (10_state.md R42). -/
theorem windowBytes_setBuf_cfg {bs : List Byte} (h : bs.length = 128) (s : State) :
    windowBytes (s.setBuf cfgBase bs) 0x100 128 = bs :=
  windowBytes_setBuf h (bufferFits_of (base := 0x100) (by omega)) s

/-- Settles O27: the blob is laid into CFG whole, and the length is checked before anything is written. -/
theorem patchOverlaysTheSerial : Obligations.PatchOverlaysTheSerial := by
  refine fun s => ⟨fun hfits => ?_, fun hlong => ⟨_, exec_patch_badArgument hlong, faulted_raise _ s⟩⟩
  have hlen := patchedBlob_length s hfits
  refine ⟨_, exec_patch_fits hfits, ?blob, finish_after (State.setBuf_status _ _ s)
    (sameWindowBut_setBuf hlen _ s) (keepsInternals_setBuf _ _ s)⟩
  rw [windowBytes_finish _ _ _ (by decide) (by decide), windowBytes_setBuf_cfg hlen,
    windowBytes_serial s hfits]
  rfl

end Sys2Proof.Machine
end

/-! ## The exchange of CONFIGURE (44_sequencer.md R146 to R148) -/

section
namespace Sys2Proof.Machine

/-- An exchange whose frame fits a packet begins with the Transmit of it. -/
theorem exchange_begun {send : State → State} {bs : List Byte} {s : State}
    (hsend : send s = s.transmit bs) (h : bs.length ≤ 64) :
    ExchangeBegun bs s (.next (exchange send s)) := by
  unfold exchange
  rw [hsend]
  refine ⟨_, transmitted_transmit h s, fun hsent => ?_, fun herror => ⟨_, rfl, ?_⟩⟩
  · rw [hsent]; rfl
  · rw [herror]; exact faulted_raise _ _

/-- Settles O38: the prologue, the session check, and the exchange of step 1. -/
theorem configureStartsWithIsBuild : Obligations.ConfigureStartsWithIsBuild := by
  intro s hstart hopen
  rw [exec_configure_start hstart, configureStart, needSession_open (s := s.beginConfigure) hopen]
  exact exchange_begun (s := s.beginConfigure.enterStep 1) rfl (by simp)

end Sys2Proof.Machine
end


/-! ## The second half of an exchange (44_sequencer.md R147, 60_exceptions.md R175) -/

section
namespace Sys2Proof.Machine

/-- What a step with an exchange goes on with once its response is accepted (44_sequencer.md R149 to R158). -/
def afterExchange (k : Byte) : State → State :=
  match k.toNat with
  | 1 => cfgStep2
  | 4 => cfgStep5
  | 6 => cfgStep7
  | 8 => cfgStep9
  | 9 => cfgStep10
  | _ => State.finish

/-- The steps of one exchange, each with the code a response without success faults with (44_sequencer.md R148,
R151, R153, R155, R156, R158). -/
def exchangeSteps : List (Byte × ErrName) :=
  [(0x01, .notConfigured), (0x04, .lockFailed), (0x06, .keyLoadFailed), (0x08, .keyLoadFailed),
    (0x09, .keyLoadFailed), (0x0B, .bootloaderTransitionFailed)]

theorem configureCaptured_exchange {k : Byte} {e : ErrName} (hk : (k, e) ∈ exchangeSteps) {s : State}
    (hs : s.seqStep = k) (o : RxOutcome) :
    configureCaptured o s = some (checkExchange o e (afterExchange k) s) := by
  unfold configureCaptured
  rw [hs]
  simp only [exchangeSteps, List.mem_cons, Prod.mk.injEq, List.not_mem_nil, or_false] at hk
  obtain ⟨rfl, rfl⟩ | ⟨rfl, rfl⟩ | ⟨rfl, rfl⟩ | ⟨rfl, rfl⟩ | ⟨rfl, rfl⟩ | ⟨rfl, rfl⟩ := hk <;> rfl

section
variable {s : State} {lim : Timeout} {o : RxOutcome} (hphase : s.phase = .await lim .afterAwait)
  (hdel : Delivers lim o s)
include hphase hdel

theorem exec_configure_captured {t : State} (h : configureCaptured o (s.receive o) = some t) :
    exec .configure s = .next t := by
  rw [exec_configure_delivers hphase hdel, h]

theorem exec_configure_exchange {k : Byte} {e : ErrName} (hk : (k, e) ∈ exchangeSteps)
    (hs : s.seqStep = k) :
    exec .configure s = .next (checkExchange o e (afterExchange k) (s.receive o)) :=
  exec_configure_captured hphase hdel (configureCaptured_exchange hk (s := s.receive o) hs o)

end

/-! ### The checks in their order -/

section
variable {x y : Byte} {bs : List Byte} {s : State} {e : ErrName} {k : State → State}

theorem checkExchange_short {b : List Byte} (h : b.length < 2) :
    checkExchange (.data b) e k (s.receive (.data b)) = (s.receive (.data b)).raise .protocolMismatch :=
  if_pos (by rw [rxLen_receive _ _ (by simp [responseBytes]; omega)]; exact h)

/-- Byte 1 of the response is the token's answer (44_sequencer.md R147). -/
theorem checkExchange_refused (h : (x :: y :: bs).length ≤ 64) (hy : y ≠ 0x01) :
    checkExchange (.data (x :: y :: bs)) e k (s.receive (.data (x :: y :: bs))) =
      (s.receive (.data (x :: y :: bs))).raise e := by
  have hlen : (responseBytes (.data (x :: y :: bs))).length ≤ 64 := h
  refine (if_neg ?_).trans (if_pos ?_)
  · rw [rxLen_receive _ _ hlen]
    simp [responseBytes]
  · rw [rx_receive _ _ hlen (by omega)]
    simpa [responseBytes] using hy

end

theorem Delivers.data_length {lim : Timeout} {b : List Byte} {s : State} (h : Delivers lim (.data b) s) :
    1 ≤ b.length ∧ b.length ≤ 64 := delivered_data h.delivered

/-- An accepted response of an exchange: what the step goes on with. -/
theorem exec_configure_accepted {s : State} {lim : Timeout} {k : Byte} {e : ErrName}
    (hphase : s.phase = .await lim .afterAwait) (hk : (k, e) ∈ exchangeSteps) (hs : s.seqStep = k)
    {x : Byte} {bs : List Byte} (hdel : Delivers lim (.data (x :: 0x01 :: bs)) s) :
    exec .configure s = .next (afterExchange k (s.receive (.data (x :: 0x01 :: bs)))) := by
  rw [exec_configure_exchange hphase hdel hk hs, checkExchange_success _ _ hdel.data_length.2]

/-- Without a delivery a wait receives its timeout and nothing else (assumption 6). -/
theorem Delivers.eq_timeout {lim : Timeout} {o : RxOutcome} {s : State} (h : Delivers lim o s)
    (hnone : NoDelivery lim s) : o = .timeout := by
  obtain ⟨ho, he⟩ | ⟨-, -, rfl⟩ := h
  · simp [hnone o ho] at he
  · rfl

end Sys2Proof.Machine
end

/-! ## What follows an accepted response (44_sequencer.md R149, R154 to R158) -/

section
namespace Sys2Proof.Machine

/-! ### The writes between two exchanges -/

/-- `t` is `s` with registers or buffers in the ranges written, STATUS not among them, and nothing else. -/
structure Writes (rs : List (Nat × Nat)) (s t : State) : Prop where
  window : SameWindowBut rs s t
  status : t.status = s.status
  control : KeepsControl s t
  logs : KeepsLogs s t

theorem KeepsControl.trans {s t u : State} (h : KeepsControl s t) (h' : KeepsControl t u) :
    KeepsControl s u :=
  ⟨h.latch.trans h'.latch, h'.session.trans h.session, h'.cancelReq.trans h.cancelReq,
    h'.phase.trans h.phase, h'.att.trans h.att⟩

theorem inRanges_append (rs rs' : List (Nat × Nat)) (a : Nat) :
    inRanges (rs ++ rs') a = (inRanges rs a || inRanges rs' a) := List.any_append

/-- One part after another changes of the window what either of them does. -/
theorem SameWindowBut.comp {rs rs' : List (Nat × Nat)} {s t u : State} (h : SameWindowBut rs s t)
    (h' : SameWindowBut rs' t u) : SameWindowBut (rs ++ rs') s u :=
  (h.mono fun a ha => by simp [inRanges_append] at ha; exact ha.1).trans
    (h'.mono fun a ha => by simp [inRanges_append] at ha; exact ha.2)

theorem Writes.comp {rs rs' : List (Nat × Nat)} {s t u : State} (h : Writes rs s t)
    (h' : Writes rs' t u) : Writes (rs ++ rs') s u :=
  ⟨h.window.comp h'.window, h'.status.trans h.status, h.control.trans h'.control, h.logs.trans h'.logs⟩

theorem Writes.mono {rs rs' : List (Nat × Nat)} {s t : State} (h : Writes rs s t)
    (hsub : ∀ a, inRanges rs' a = false → inRanges rs a = false) : Writes rs' s t :=
  { h with window := h.window.mono hsub }

theorem writes_setBuf {bs : List Byte} {n : Nat} (hn : bs.length = n) (base : Nat) (s : State) :
    Writes [(base, n)] s (s.setBuf base bs) :=
  ⟨sameWindowBut_setBuf hn base s, rfl, ⟨{ KeepsLatch.refl s with }, rfl, rfl, rfl, rfl⟩,
    { KeepsLogs.refl s with }⟩

theorem writes_enterStep (k : Byte) (s : State) : Writes [(0x007, 1)] s (s.enterStep k) :=
  ⟨sameWindowBut_of rfl (fun a _ ho => readRegister_enterStep k s a (by rintro rfl; simp [inRanges] at ho))
      (fun _ _ _ _ => rfl),
    rfl, ⟨{ KeepsLatch.refl s with }, rfl, rfl, rfl, rfl⟩, { KeepsLogs.refl s with }⟩

/-- A buffer is where it was after SEQ_STEP is written. -/
theorem buf_enterStep (k : Byte) (s : State) (base n : Nat) :
    (s.enterStep k).buf base n = s.buf base n := rfl

section
variable (s : State)

/-- WKEY as the HOST reads it (10_state.md R44). -/
theorem windowBytes_wkey : windowBytes s 0x200 32 = s.buf wkeyBase Config.keyLen :=
  windowBytes_eq (bufferFits_of (by omega)) s

/-- RKEY as the HOST reads it (10_state.md R44). -/
theorem windowBytes_rkey : windowBytes s 0x220 32 = s.buf rkeyBase Config.keyLen :=
  windowBytes_eq (bufferFits_of (by omega)) s

/-- WMASK as the HOST reads it (10_state.md R46). -/
theorem windowBytes_wmask : windowBytes s 0x260 36 = s.buf wmaskBase Config.maskLen :=
  windowBytes_eq (bufferFits_of (by omega)) s

/-- RMASK as the HOST reads it (10_state.md R46). -/
theorem windowBytes_rmask : windowBytes s 0x2A0 36 = s.buf rmaskBase Config.maskLen :=
  windowBytes_eq (bufferFits_of (by omega)) s

/-! ### The masks and the digests of step 7 (R154) -/

/-- Step 7 up to the entry of step 8, from the keys as the HOST reads them (44_sequencer.md R154, R155). -/
def State.masksDerived (wkey rkey : List Byte) (s : State) : State :=
  ((((s.enterStep 7).setBuf wmaskBase (deriveMask wkey)).setBuf rmaskBase (deriveMask rkey)).setDigests
    rkey).enterStep 8

variable (wkey rkey : List Byte)

theorem writes_setDigests (k : List Byte) (s : State) : Writes [(0x2E0, 64)] s (s.setDigests k) :=
  ((writes_setBuf (digest1_length k) digest1Base s).comp
    (writes_setBuf (digest2_length k) digest2Base _)).mono fun a => by
      simp [inRanges, digest1Base, digest2Base]; omega

theorem writes_masksDerived :
    Writes [(0x007, 1), (0x260, 36), (0x2A0, 36), (0x2E0, 64)] s (s.masksDerived wkey rkey) :=
  ((((writes_enterStep 7 s).comp (writes_setBuf (deriveMask_length wkey) wmaskBase _)).comp
    (writes_setBuf (deriveMask_length rkey) rmaskBase _)).comp (writes_setDigests rkey _)).comp
    (writes_enterStep 8 _) |>.mono fun a => by simp [inRanges, wmaskBase, rmaskBase]; omega

/-- Each buffer step 7 writes lies outside those written after it. -/
theorem windowBytes_masksDerived :
    windowBytes (s.masksDerived wkey rkey) 0x260 36 = deriveMask wkey ∧
      windowBytes (s.masksDerived wkey rkey) 0x2A0 36 = deriveMask rkey ∧
      windowBytes (s.masksDerived wkey rkey) 0x2E0 32 = digest1 rkey ∧
      windowBytes (s.masksDerived wkey rkey) 0x300 32 = digest2 rkey := by
  unfold State.masksDerived
  generalize s.enterStep 7 = u
  have hstep (t : State) := (writes_enterStep 8 t).window
  have hdigests (t : State) := (writes_setDigests rkey t).window
  have hrmask (t : State) := (writes_setBuf (deriveMask_length rkey) rmaskBase t).window
  refine ⟨?wmask, ?rmask, ?digest1, ?digest2⟩
  case wmask =>
    exact (((hrmask _).comp (hdigests _)).comp (hstep _)).windowBytes 0x260 36 (by decide)
      (fun a _ _ => by simp [inRanges, rmaskBase]; omega) |>.trans
        (windowBytes_setBuf (deriveMask_length wkey) (bufferFits_of (base := 0x260) (by omega)) u)
  case rmask =>
    exact ((hdigests _).comp (hstep _)).windowBytes 0x2A0 36 (by decide)
      (fun a _ _ => by simp [inRanges]; omega) |>.trans
        (windowBytes_setBuf (deriveMask_length rkey) (bufferFits_of (base := 0x2A0) (by omega)) _)
  case digest1 =>
    exact (hstep _).windowBytes 0x2E0 32 (by decide) (fun a _ _ => by simp [inRanges]; omega) |>.trans
      (windowBytes_setDigests_digest1 rkey _)
  case digest2 =>
    exact (hstep _).windowBytes 0x300 32 (by decide) (fun a _ _ => by simp [inRanges]; omega) |>.trans
      (windowBytes_setDigests_digest2 rkey _)

/-- Step 7 derives the masks of the keys, and step 8 sends the write key's (44_sequencer.md R154, R155). -/
theorem cfgStep7_eq :
    cfgStep7 s = exchange
      (sendLoadWriteKey
        (windowBytes (s.masksDerived (windowBytes s 0x200 32) (windowBytes s 0x220 32)) 0x260 36))
      (s.masksDerived (windowBytes s 0x200 32) (windowBytes s 0x220 32)) := by
  rw [windowBytes_wmask, windowBytes_wkey, windowBytes_rkey]
  unfold State.masksDerived
  rw [buf_enterStep]
  rfl

theorem cfgStep7_begun :
    ExchangeBegun ([0x00, s.params.cmd.loadWriteKey] ++ deriveMask (windowBytes s 0x200 32))
      (s.masksDerived (windowBytes s 0x200 32) (windowBytes s 0x220 32)) (.next (cfgStep7 s)) := by
  rw [cfgStep7_eq, (windowBytes_masksDerived _ _ _).1]
  refine exchange_begun ?_ (by simp)
  show State.transmitShort _ _ _ = _
  rw [(writes_masksDerived s _ _).control.latch.params]
  rfl

/-! ### The request of step 2 (R149) -/

/-- The first attempt sends no request of its own: it follows the one of the step. -/
theorem serialAttempts_first (n : Nat) (e : ErrName) : serialAttempts (n + 1) 1 e s = s.attempt 1 :=
  if_neg (by simp)

/-- Step 2 up to its first await: the request, then attempt 1 (44_sequencer.md R149). -/
theorem cfgStep2_eq :
    cfgStep2 s = afterTransmit (txAnswer s) (State.attempt 1)
      ((s.enterStep 2).transmit [0x00, s.params.cmd.getSerial]) :=
  congrArg (fun k => afterTransmit (txAnswer s) k _) (funext fun v => serialAttempts_first v 4 .ioTimeout)

theorem cfgStep2_begun :
    ∃ v, Transmitted [0x00, s.params.cmd.getSerial] (txAnswer s) (s.enterStep 2) v ∧
      (txAnswer s = .sent → cfgStep2 s = v.attempt 1) ∧
      (txAnswer s = .linkError → Faulted .linkError v (cfgStep2 s)) := by
  rw [cfgStep2_eq]
  refine ⟨_, transmitted_transmit (by simp) (s.enterStep 2), fun hsent => ?_, fun herror => ?_⟩
  · rw [hsent]; rfl
  · rw [herror]; exact faulted_raise _ _

/-! ### The output image of step 10 and the frame of step 11 (R157, R158) -/

/-- The output image, of the masks as the HOST reads them (44_sequencer.md R157). -/
def imageText (s : State) : List Byte :=
  hexText (windowBytes s 0x260 36) ++ [0x0A] ++ hexText (windowBytes s 0x2A0 36) ++ [0x0A]

theorem outputImage_eq : outputImage s = imageText s := by
  unfold outputImage imageText
  rw [windowBytes_wmask, windowBytes_rmask]

/-- Step 10 up to the entry of step 11 (44_sequencer.md R157). -/
def State.imageEmitted (img : List Byte) (s : State) : State :=
  (((s.enterStep 10).emit (.persist img)).setOutv).enterStep 11

theorem cfgStep10_begun :
    ExchangeBegun [0x00, s.params.cmd.bootloader] (s.imageEmitted (imageText s)) (.next (cfgStep10 s)) := by
  unfold cfgStep10
  rw [outputImage_eq]
  exact exchange_begun (s := s.imageEmitted (imageText s)) rfl (by simp)

end

/-- A capture leaves every byte above RXBUF (43_transport.md R137). -/
theorem Captured.windowBytes_above {o : RxOutcome} {s u : State} (h : Captured o s u) (base n : Nat)
    (h1 : 0x0C0 ≤ base) (h2 : base + n ≤ 0x400) : windowBytes u base n = windowBytes s base n :=
  h.window.windowBytes base n h2 fun a _ _ => by simp [inRanges]; omega

/-- A capture leaves the masks, so the image is the same (43_transport.md R137). -/
theorem Captured.imageText_eq {o : RxOutcome} {s u : State} (h : Captured o s u) :
    imageText u = imageText s := by
  unfold imageText
  rw [h.windowBytes_above 0x260 36 (by decide) (by decide),
    h.windowBytes_above 0x2A0 36 (by decide) (by decide)]

/-- Settles O39: the checks one after another, each with its fault, and after the last of them the parts
between this exchange and the next. -/
theorem exchangeChecksTheResponse : Obligations.ExchangeChecksTheResponse := by
  intro s k e o hk hphase hs hdel c wkey rkey
  have hcap := hdel.captured
  have hexec := exec_configure_exchange hphase hdel hk hs
  refine ⟨s.receive o, hcap, hdel.eq_timeout, ?timeout, ?linkError, ?short, ?refused, ?accepted⟩
  case timeout => rintro rfl; exact ⟨_, hexec, faulted_raise _ _⟩
  case linkError => rintro rfl; exact ⟨_, hexec, faulted_raise _ _⟩
  case short =>
    rintro b rfl hb
    exact ⟨_, hexec, checkExchange_short hb ▸ faulted_raise _ _⟩
  case refused =>
    rintro x y bs rfl hy
    exact ⟨_, hexec, checkExchange_refused hdel.data_length.2 hy ▸ faulted_raise _ _⟩
  case accepted =>
    rintro x bs rfl
    have hnext := exec_configure_accepted hphase hk hs hdel
    generalize hu : s.receive (.data (x :: 0x01 :: bs)) = u at hcap hnext
    have hparams : s.params.cmd = u.params.cmd := by rw [hcap.control.latch.params]
    refine ⟨?step1, ?step6, ?step9, ?step11⟩
    case step1 =>
      rintro rfl
      obtain ⟨v, htransmitted, hsent, herror⟩ := cfgStep2_begun u
      rw [← hparams] at htransmitted
      rw [hnext]
      exact ⟨v, htransmitted, fun h => congrArg _ (hsent h), fun h => ⟨_, rfl, herror h⟩⟩
    case step6 =>
      rintro rfl
      obtain ⟨hwmask, hrmask, hdigest1, hdigest2⟩ := windowBytes_masksDerived u wkey rkey
      obtain ⟨hwindow, hstatus, hcontrol, hlogs⟩ := writes_masksDerived u wkey rkey
      have hbegun := cfgStep7_begun u
      rw [hcap.windowBytes_above 0x200 32 (by decide) (by decide),
        hcap.windowBytes_above 0x220 32 (by decide) (by decide), ← hparams] at hbegun
      exact ⟨_, hwmask, hrmask, hdigest1, hdigest2, rfl, hstatus, hwindow, hcontrol, hlogs,
        hnext ▸ hbegun⟩
    case step9 =>
      rintro rfl
      have hbegun := cfgStep10_begun u
      rw [hcap.imageText_eq, ← hparams] at hbegun
      exact hnext ▸ hbegun
    case step11 => rintro rfl; exact ⟨_, hnext, ended_finish _⟩

end Sys2Proof.Machine
end


/-! ## The keys of steps 5 and 9 (44_sequencer.md R152, R153, R156) -/

section
namespace Sys2Proof.Machine

/-! ### The attestation key (R156) -/

theorem windowBytes_attkey (s : State) : windowBytes s 0x240 32 = s.buf attkeyBase Config.keyLen :=
  windowBytes_eq (bufferFits_of (by omega)) s

theorem cfgStep9_badKey {s : State} (h : s.attkeyLen ≠ 32) :
    cfgStep9 s = (s.enterStep 9).raise .invalidAttestationKey := if_pos h

theorem cfgStep9_begun {s : State} (h : s.attkeyLen = 32) :
    ExchangeBegun ([0x00, s.params.cmd.loadAttestKey] ++ windowBytes s 0x240 32) (s.enterStep 9)
      (.next (cfgStep9 s)) := by
  rw [show cfgStep9 s = exchange _ (s.enterStep 9) from if_neg (not_not_intro h), windowBytes_attkey]
  exact exchange_begun rfl (by simp [Config.keyLen])

/-- Settles O43: the length is checked on the state the response was captured in, before the exchange. -/
theorem attestationKeyCheckedBeforeSending : Obligations.AttestationKeyCheckedBeforeSending := by
  intro s x bs hphase hs hdel
  have hcap := hdel.captured
  have hexec := exec_configure_accepted hphase (e := .keyLoadFailed) (by decide) hs hdel
  generalize s.receive (.data (x :: 0x01 :: bs)) = u at hcap hexec
  have hlen : u.attkeyLen = s.attkeyLen := hcap.window 0x010 rfl
  refine ⟨u, hcap, fun hbad => ?badKey, fun hgood => ?sent⟩
  case badKey =>
    exact ⟨_, hexec.trans (congrArg _ (cfgStep9_badKey (hlen ▸ hbad))), faulted_raise _ _⟩
  case sent =>
    have hbegun := cfgStep9_begun (hlen.trans hgood)
    rw [hcap.windowBytes_above 0x240 32 (by decide) (by decide), hcap.control.latch.params] at hbegun
    exact hexec ▸ hbegun

/-! ### The write key and the read key (R152) -/

theorem writes_setWkeyLen (n : Byte) (s : State) : Writes [(0x00E, 1)] s (s.setWkeyLen n) :=
  ⟨sameWindowBut_of rfl (fun a _ ho => readRegister_setWkeyLen n s a (by rintro rfl; simp [inRanges] at ho))
      (fun _ _ _ _ => rfl),
    rfl, ⟨{ KeepsLatch.refl s with }, rfl, rfl, rfl, rfl⟩, { KeepsLogs.refl s with }⟩

theorem writes_setRkeyLen (n : Byte) (s : State) : Writes [(0x00F, 1)] s (s.setRkeyLen n) :=
  ⟨sameWindowBut_of rfl (fun a _ ho => readRegister_setRkeyLen n s a (by rintro rfl; simp [inRanges] at ho))
      (fun _ _ _ _ => rfl),
    rfl, ⟨{ KeepsLatch.refl s with }, rfl, rfl, rfl, rfl⟩, { KeepsLogs.refl s with }⟩

/-- From `s` to `t` a key was taken: the supplied one left where it is, or one drawn and stored in the buffer at
`base`, its length in the register at `reg` (44_sequencer.md R152). -/
structure KeyTaken (supplied : Bool) (base reg : Nat) (s t : State) : Prop where
  key : windowBytes t base 32 = if supplied then windowBytes s base 32 else (drawAnswer s).toList
  window : SameWindowBut [(reg, 1), (base, 32)] s t
  status : t.status = s.status
  control : KeepsControl s t
  outLog : t.outLog = s.outLog
  linkLog : t.linkLog = s.linkLog
  env : t.env = { s.env with draws := s.env.draws.drop (if supplied then 0 else 1) }
  freeCount : t.freeCount = s.freeCount + if supplied then 0 else freeStep s.env.draws

theorem KeepsControl.refl (s : State) : KeepsControl s s := ⟨.refl s, rfl, rfl, rfl, rfl⟩

theorem keyTaken_supplied (base reg : Nat) (s : State) : KeyTaken true base reg s s :=
  ⟨rfl, .refl _ s, rfl, .refl s, rfl, rfl, rfl, rfl⟩

/-- A key drawn and stored, whatever the write of its length is. -/
theorem keyTaken_drawn {base reg : Nat} {s t : State} (hfits : bufferFits base 32) (hreg : reg < 0x040)
    (h : Writes [(reg, 1)] (s.dropDraw.setBuf base (drawAnswer s).toList) t) :
    KeyTaken false base reg s t := by
  have hlen : (drawAnswer s).toList.length = 32 := Vector.length_toList
  have hdraw := writes_setBuf hlen base s.dropDraw
  obtain ⟨hwindow, hstatus, hcontrol, hlogs⟩ := hdraw.comp h
  refine ⟨?key, fun off ho => hwindow off ?apart, hstatus, ?control, hlogs.outLog, hlogs.linkLog, ?env,
    hlogs.freeCount⟩
  case key =>
    have ⟨hlow, hhigh, _⟩ := hfits
    exact (h.window.windowBytes base 32 (by omega) fun a _ _ => by simp [inRanges]; omega).trans
      (windowBytes_setBuf hlen hfits s.dropDraw)
  case apart => simp [inRanges] at ho ⊢; omega
  case control =>
    have hdrop : KeepsControl s s.dropDraw := ⟨{ KeepsLatch.refl s with }, rfl, rfl, rfl, rfl⟩
    exact hdrop.trans hcontrol
  case env =>
    rw [hlogs.env, State.dropDraw_env, ← List.drop_one]
    rfl

/-- The write key taken: the supplied one, or a drawn one (44_sequencer.md R152). -/
def State.takeWriteKey (s : State) : State := if wsup s then s else s.drawWriteKey

/-- The read key taken: the supplied one, or a drawn one (44_sequencer.md R152). -/
def State.takeReadKey (s : State) : State := if rsup s then s else s.drawReadKey

section
variable (s : State)

theorem keyTaken_takeWriteKey : KeyTaken (wsup s) 0x200 0x00E s s.takeWriteKey := by
  unfold State.takeWriteKey
  cases wsup s
  · exact keyTaken_drawn (bufferFits_of (by omega)) (by decide) (writes_setWkeyLen 32 _)
  · exact keyTaken_supplied _ _ s

theorem keyTaken_takeReadKey : KeyTaken (rsup s) 0x220 0x00F s s.takeReadKey := by
  unfold State.takeReadKey
  cases rsup s
  · exact keyTaken_drawn (bufferFits_of (by omega)) (by decide) (writes_setRkeyLen 32 _)
  · exact keyTaken_supplied _ _ s

theorem cfgStep6_begun :
    ExchangeBegun ([0x00, s.params.cmd.loadTransKey] ++ windowBytes s 0x200 32) (s.enterStep 6)
      (.next (cfgStep6 s)) := by
  rw [windowBytes_wkey]
  exact exchange_begun rfl (by simp [Config.keyLen])

end

section
variable {s : State}

theorem takeWriteKey_wkeyLen (h : wsup s = true → s.wkeyLen = 32) : s.takeWriteKey.wkeyLen = 32 := by
  unfold State.takeWriteKey
  split
  next hsup => exact h hsup
  · rfl

theorem takeReadKey_rkeyLen (h : rsup s = true → s.rkeyLen = 32) : s.takeReadKey.rkeyLen = 32 := by
  unfold State.takeReadKey
  split
  next hsup => exact h hsup
  · rfl

theorem cfgStep5_badWriteKey (hsup : wsup s = true) (hlen : s.wkeyLen ≠ 32) :
    cfgStep5 s = (s.enterStep 5).raise .badArgument := (if_pos hsup).trans (if_pos hlen)

theorem cfgStep5_readKey (h : wsup s = true → s.wkeyLen = 32) :
    cfgStep5 s = cfgReadKey (s.enterStep 5).takeWriteKey := by
  unfold cfgStep5 State.takeWriteKey
  split
  next hsup => exact (if_neg (not_not_intro (h hsup))).trans (congrArg cfgReadKey (if_pos hsup).symm)
  next hsup => exact congrArg cfgReadKey (if_neg hsup).symm

theorem cfgReadKey_badReadKey (hsup : rsup s = true) (hlen : s.rkeyLen ≠ 32) :
    cfgReadKey s = s.raise .badArgument := (if_pos hsup).trans (if_pos hlen)

theorem cfgReadKey_step6 (h : rsup s = true → s.rkeyLen = 32) : cfgReadKey s = cfgStep6 s.takeReadKey := by
  unfold cfgReadKey State.takeReadKey
  split
  next hsup => exact if_neg (not_not_intro (h hsup))
  · rfl

end

/-! ### Both keys -/

theorem drawAnswer_of_env {s : State} {d : Draw} {ds : List Draw} (h : s.env.draws = d :: ds) :
    drawAnswer s = d := by
  unfold drawAnswer
  rw [h]

/-- Step 5 where both keys can be had, the write key's turn before the read key's (44_sequencer.md R152). -/
def State.takeKeys (s : State) : State := (s.enterStep 5).takeWriteKey.takeReadKey

theorem rsup_takeWriteKey (s : State) : rsup s.takeWriteKey = rsup s := by
  have hflags : s.takeWriteKey.keyFlags = s.keyFlags := (keyTaken_takeWriteKey s).window 0x00D rfl
  unfold rsup
  rw [hflags]

theorem takeWriteKey_rkeyLen (s : State) : s.takeWriteKey.rkeyLen = s.rkeyLen :=
  (keyTaken_takeWriteKey s).window 0x00F rfl

theorem takeReadKey_wkeyLen (s : State) : s.takeReadKey.wkeyLen = s.wkeyLen :=
  (keyTaken_takeReadKey s).window 0x00E rfl

/-- The write key can be had and the read key cannot (44_sequencer.md R152). -/
theorem cfgStep5_badReadKey {s : State} (hw : wsup s = true → s.wkeyLen = 32) (hsup : rsup s = true)
    (hlen : s.rkeyLen ≠ 32) : cfgStep5 s = (s.enterStep 5).takeWriteKey.raise .badArgument := by
  rw [cfgStep5_readKey hw, cfgReadKey_badReadKey]
  · exact (rsup_takeWriteKey _).trans hsup
  · rw [takeWriteKey_rkeyLen]
    exact hlen

section
variable {s : State} (hw : wsup s = true → s.wkeyLen = 32) (hr : rsup s = true → s.rkeyLen = 32)
include hw hr

theorem cfgStep5_takeKeys : cfgStep5 s = cfgStep6 s.takeKeys := by
  rw [cfgStep5_readKey hw, cfgReadKey_step6]
  · rfl
  · rw [rsup_takeWriteKey, takeWriteKey_rkeyLen]
    exact hr

theorem takeKeys_lengths : s.takeKeys.wkeyLen = 32 ∧ s.takeKeys.rkeyLen = 32 := by
  refine ⟨(takeReadKey_wkeyLen _).trans (takeWriteKey_wkeyLen (s := s.enterStep 5) hw),
    takeReadKey_rkeyLen ?_⟩
  rw [rsup_takeWriteKey, takeWriteKey_rkeyLen]
  exact hr

end

/-- The draws left to the read key, with two to come before step 5 (44_sequencer.md R152). -/
theorem takeWriteKey_draws {s : State} {d0 d1 : Draw} {ds : List Draw} (h : s.env.draws = d0 :: d1 :: ds) :
    s.takeWriteKey.env.draws = (if wsup s then d0 else d1) :: if wsup s then d1 :: ds else ds := by
  rw [(keyTaken_takeWriteKey s).env]
  dsimp only
  rw [h]
  cases wsup s <;> rfl

/-- What step 5 leaves, with two draws to come: the read key takes the first one where the write key is
supplied (44_sequencer.md R152). -/
theorem takeKeys_keys {s : State} {d0 d1 : Draw} {ds : List Draw} (h : s.env.draws = d0 :: d1 :: ds) :
    windowBytes s.takeKeys 0x200 32 = (if wsup s then windowBytes s 0x200 32 else d0.toList) ∧
      windowBytes s.takeKeys 0x220 32 =
        (if rsup s then windowBytes s 0x220 32 else (if wsup s then d0 else d1).toList) := by
  have hstep (base : Nat) (h1 : 0x008 ≤ base) (h2 : base + 32 ≤ 0x400) :
      windowBytes (s.enterStep 5) base 32 = windowBytes s base 32 :=
    (writes_enterStep 5 s).window.windowBytes base 32 h2 fun a _ _ => by simp [inRanges]; omega
  have hfirst := keyTaken_takeWriteKey (s.enterStep 5)
  have hsecond := keyTaken_takeReadKey (s.enterStep 5).takeWriteKey
  have hdraw := drawAnswer_of_env (takeWriteKey_draws (s := s.enterStep 5) h)
  constructor
  · refine (hsecond.window.windowBytes 0x200 32 (by decide) fun a _ _ => by simp [inRanges]; omega).trans ?_
    rw [hfirst.key, hstep 0x200 (by decide) (by decide), drawAnswer_of_env (s := s.enterStep 5) h]
    rfl
  · refine hsecond.key.trans ?_
    rw [hdraw, rsup_takeWriteKey, hfirst.window.windowBytes 0x220 32 (by decide)
      fun a _ _ => by simp [inRanges]; omega, hstep 0x220 (by decide) (by decide)]
    rfl

/-- Taking a key with a draw to come uses no free value (assumption 2). -/
theorem KeyTaken.freeCount_eq {supplied : Bool} {base reg : Nat} {s t : State}
    (h : KeyTaken supplied base reg s t) {d : Draw} {ds : List Draw} (hdraws : s.env.draws = d :: ds) :
    t.freeCount = s.freeCount := by
  rw [h.freeCount, hdraws]
  cases supplied <;> rfl

section
variable (s : State)

theorem sameWindowBut_takeKeys : SameWindowBut [(0x007, 1), (0x00E, 2), (0x200, 64)] s s.takeKeys :=
  (((writes_enterStep 5 s).window.comp (keyTaken_takeWriteKey _).window).comp
    (keyTaken_takeReadKey _).window).mono fun a => by simp [inRanges]; omega

theorem keepsControl_takeKeys : KeepsControl s s.takeKeys :=
  ((writes_enterStep 5 s).control.trans (keyTaken_takeWriteKey _).control).trans
    (keyTaken_takeReadKey _).control

theorem takeKeys_status : s.takeKeys.status = s.status :=
  (keyTaken_takeReadKey _).status.trans (keyTaken_takeWriteKey (s.enterStep 5)).status

theorem takeKeys_logs : s.takeKeys.outLog = s.outLog ∧ s.takeKeys.linkLog = s.linkLog :=
  ⟨(keyTaken_takeReadKey _).outLog.trans (keyTaken_takeWriteKey (s.enterStep 5)).outLog,
    (keyTaken_takeReadKey _).linkLog.trans (keyTaken_takeWriteKey (s.enterStep 5)).linkLog⟩

/-- Each key that is not supplied takes one draw (44_sequencer.md R152). -/
theorem takeKeys_env :
    s.takeKeys.env = { s.env with
      draws := s.env.draws.drop ((if wsup s then 0 else 1) + (if rsup s then 0 else 1)) } := by
  have hfirst := (keyTaken_takeWriteKey (s.enterStep 5)).env
  have hsecond := (keyTaken_takeReadKey (s.enterStep 5).takeWriteKey).env
  rw [hfirst, rsup_takeWriteKey, List.drop_drop] at hsecond
  exact hsecond

theorem takeKeys_freeCount {s : State} {d0 d1 : Draw} {ds : List Draw}
    (h : s.env.draws = d0 :: d1 :: ds) : s.takeKeys.freeCount = s.freeCount :=
  ((keyTaken_takeReadKey _).freeCount_eq (takeWriteKey_draws (s := s.enterStep 5) h)).trans
    ((keyTaken_takeWriteKey (s.enterStep 5)).freeCount_eq h)

end

/-- Settles O42: the write key's check and draw come before the read key's, and the exchange of step 6 after
both. -/
theorem keyAcquisition : Obligations.KeyAcquisition := by
  intro s x bs hphase hs hdel wsup rsup
  have hcap := hdel.captured
  have hexec := exec_configure_accepted hphase (e := .lockFailed) (by decide) hs hdel
  generalize s.receive (.data (x :: 0x01 :: bs)) = u at hcap hexec
  have hexec : exec .configure s = .next (cfgStep5 u) := hexec
  have hflags : u.keyFlags = s.keyFlags := hcap.window 0x00D rfl
  have hw : Machine.wsup u = wsup := congrArg (·.getLsbD 0) hflags
  have hr : Machine.rsup u = rsup := congrArg (·.getLsbD 1) hflags
  have hwlen : u.wkeyLen = s.wkeyLen := hcap.window 0x00E rfl
  have hrlen : u.rkeyLen = s.rkeyLen := hcap.window 0x00F rfl
  refine ⟨u, hcap, fun hsup hlen => ?badWriteKey, fun hdrawn hsup hlen => ?drawnBadReadKey,
    fun _ hwgood hsup hlen => ?badReadKey, fun hwgood hrgood d0 d1 ds hdraws => ?keys⟩
  case badWriteKey =>
    exact ⟨_, hexec.trans (congrArg _ (cfgStep5_badWriteKey (hw.trans hsup) (hwlen ▸ hlen))),
      faulted_raise _ _⟩
  case drawnBadReadKey =>
    have hdrawn : Machine.wsup u = false := hw.trans hdrawn
    have hbad := cfgStep5_badReadKey (s := u) (by simp [hdrawn]) (hr.trans hsup) (hrlen ▸ hlen)
    have htaken := keyTaken_takeWriteKey (u.enterStep 5)
    have hfault := faulted_raise .badArgument (u.enterStep 5).takeWriteKey
    have hkey := htaken.key.trans (if_neg (Bool.eq_false_iff.mp hdrawn))
    exact ⟨_, hexec.trans (congrArg _ hbad), rfl, htaken.window 0x007 rfl, rfl,
      (hfault.window.windowBytes 0x200 32 (by decide) fun a _ _ => by simp [inRanges]; omega).trans hkey,
      takeWriteKey_wkeyLen (s := u.enterStep 5) (fun h => nomatch hdrawn.symm.trans h), htaken.linkLog⟩
  case badReadKey =>
    have hsupplied : (u.enterStep 5).takeWriteKey = u.enterStep 5 := if_pos (hw.trans ‹_›)
    have hbad := cfgStep5_badReadKey (s := u) (fun _ => hwlen.trans hwgood) (hr.trans hsup) (hrlen ▸ hlen)
    rw [hsupplied] at hbad
    exact ⟨_, hexec.trans (congrArg _ hbad), faulted_raise _ _⟩
  case keys =>
    have hwgood : Machine.wsup u = true → u.wkeyLen = 32 := by rwa [hw, hwlen]
    have hrgood : Machine.rsup u = true → u.rkeyLen = 32 := by rwa [hr, hrlen]
    have hdraws' : u.env.draws = d0 :: d1 :: ds := by rw [hcap.answers]; exact hdraws
    obtain ⟨hwkey, hrkey⟩ := takeKeys_keys hdraws'
    rw [hw, hcap.windowBytes_above 0x200 32 (by decide) (by decide)] at hwkey
    rw [hw, hr, hcap.windowBytes_above 0x220 32 (by decide) (by decide)] at hrkey
    obtain ⟨hwlen', hrlen'⟩ := takeKeys_lengths hwgood hrgood
    obtain ⟨hout, hlink⟩ := takeKeys_logs u
    have henv := takeKeys_env u
    rw [hw, hr] at henv
    have hbegun := cfgStep6_begun u.takeKeys
    rw [← cfgStep5_takeKeys hwgood hrgood, ← hexec, (keepsControl_takeKeys u).latch.params,
      hcap.control.latch.params, hwkey] at hbegun
    have henter := writes_enterStep 6 u.takeKeys
    have hkept (base : Nat) (h1 : 0x008 ≤ base) (h2 : base + 32 ≤ 0x400) :
        windowBytes (u.takeKeys.enterStep 6) base 32 = windowBytes u.takeKeys base 32 :=
      henter.window.windowBytes base 32 h2 fun a _ _ => by simp [inRanges]; omega
    exact ⟨u.takeKeys.enterStep 6, rfl, hwlen', hrlen', (hkept 0x200 (by decide) (by decide)).trans hwkey,
      (hkept 0x220 (by decide) (by decide)).trans hrkey, takeKeys_status u,
      ((sameWindowBut_takeKeys u).comp henter.window).mono (fun a => by simp [inRanges]; omega),
      (keepsControl_takeKeys u).trans henter.control, hout, hlink, takeKeys_freeCount hdraws', henv, hbegun⟩

end Sys2Proof.Machine
end


/-! ## The serial of steps 2 to 4 (44_sequencer.md R149 to R151) -/

section
namespace Sys2Proof.Machine

/-! ### A response in RXBUF -/

/-- A run of a buffer's bytes. -/
theorem buf_slice (s : State) {base i n m : Nat} (h : i + n ≤ m) :
    s.buf (base + i) n = ((s.buf base m).drop i).take n := by
  refine List.ext_getElem (by simp; omega) fun j h1 h2 => ?_
  simp only [buf_getElem, List.getElem_take, List.getElem_drop, Nat.add_assoc]

theorem Captured.rxBuf {o : RxOutcome} {s u : State} (h : Captured o s u) :
    u.buf rxBase 64 = zeroPadded (responseBytes o) :=
  (windowBytes_eq (bufferFits_of (base := 0x080) (by omega)) u).symm.trans h.response

/-- The bytes of a response after its first two (44_sequencer.md R149). -/
theorem Captured.rxBody {x y : Byte} {body : List Byte} {s u : State}
    (h : Captured (.data (x :: y :: body)) s u) {n : Nat} (hn : n ≤ body.length) (hmax : body.length ≤ 62) :
    u.buf (rxBase + 2) n = body.take n := by
  rw [buf_slice u (i := 2) (m := 64) (by omega), h.rxBuf]
  exact List.take_append_of_le_length hn

/-! ### The checks of the response -/

theorem configureCaptured_serial {s : State} (hs : s.seqStep = 0x02) (o : RxOutcome) :
    configureCaptured o s = some (serialGoOn o s) := by
  unfold configureCaptured
  rw [hs]
  rfl

section
variable {s : State} {lim : Timeout} (hphase : s.phase = .await lim .afterAwait) (hs : s.seqStep = 0x02)
include hphase hs

theorem exec_configure_serial {o : RxOutcome} (hdel : Delivers lim o s) :
    exec .configure s = .next (serialGoOn o (s.receive o)) :=
  exec_configure_captured hphase hdel (configureCaptured_serial (s := s.receive o) hs o)

/-- A response with the echo of the request is the accepted one (44_sequencer.md R149). -/
theorem exec_configure_echo {rest : List Byte} (hdel : Delivers lim (.data (s.params.cmd.getSerial :: rest)) s) :
    exec .configure s = .next (serialAccepted (s.receive (.data (s.params.cmd.getSerial :: rest)))) := by
  rw [exec_configure_serial hphase hs hdel]
  exact congrArg _ (if_pos (rx_receive (.data _) s hdel.data_length.2 (by omega)))

end

section
variable {x len : Byte} {body : List Byte} {s : State}

theorem rxLen_data {b : List Byte} (h : b.length ≤ 64) : (s.receive (.data b)).rxLen.toNat = b.length :=
  rxLen_receive (.data b) s h

theorem serialAccepted_echoOnly : serialAccepted (s.receive (.data [x])) =
    (s.receive (.data [x])).raise .protocolMismatch :=
  if_pos (by rw [rxLen_data (by simp)]; simp)

variable (h : (x :: len :: body).length ≤ 64)
include h

/-- The second byte of the response is the serial's length (44_sequencer.md R149). -/
theorem rx_one_receive : (s.receive (.data (x :: len :: body))).rx 1 = len :=
  rx_receive (.data (x :: len :: body)) s h (by omega)

theorem serialAccepted_cut (hcut : body.length < len.toNat) :
    serialAccepted (s.receive (.data (x :: len :: body))) =
      (s.receive (.data (x :: len :: body))).raise .protocolMismatch := by
  unfold serialAccepted
  rw [rxLen_data h, rx_one_receive h, List.length_cons, List.length_cons, if_neg (by omega),
    if_pos (by omega)]

theorem serialAccepted_whole (hwhole : len.toNat ≤ body.length) :
    serialAccepted (s.receive (.data (x :: len :: body))) =
      cfgStep3 (s.receive (.data (x :: len :: body))).storeSerial := by
  unfold serialAccepted
  rw [rxLen_data h, rx_one_receive h, List.length_cons, List.length_cons, if_neg (by omega),
    if_neg (by omega)]

end

/-! ### From the stored serial to the lock frame -/

theorem writes_setSerialLen (n : Byte) (s : State) : Writes [(0x00C, 1)] s (s.setSerialLen n) :=
  ⟨sameWindowBut_of rfl (fun a _ ho => readRegister_setSerialLen n s a (by rintro rfl; simp [inRanges] at ho))
      (fun _ _ _ _ => rfl),
    rfl, ⟨{ KeepsLatch.refl s with }, rfl, rfl, rfl, rfl⟩, { KeepsLogs.refl s with }⟩

theorem writes_setCrcAcc (x : Word16) (s : State) : Writes [(0x014, 2)] s (s.setCrcAcc x) :=
  ⟨sameWindowBut_setCrcAcc x s, rfl, ⟨{ KeepsLatch.refl s with }, rfl, rfl, rfl, rfl⟩,
    { KeepsLogs.refl s with }⟩

theorem writes_setCrcOut (x : Word16) (s : State) : Writes [(0x016, 2)] s (s.setCrcOut x) :=
  ⟨sameWindowBut_setCrcOut x s, rfl, ⟨{ KeepsLatch.refl s with }, rfl, rfl, rfl, rfl⟩,
    { KeepsLogs.refl s with }⟩

theorem writes_crcBlob (s : State) : Writes [(0x014, 4)] s s.crcBlob :=
  ((writes_setCrcAcc _ s).comp (writes_setCrcOut _ _)).mono fun a => by simp [inRanges]; omega

/-- The serial and its length stored (44_sequencer.md R149). -/
def State.putSerial (serial : List Byte) (len : Byte) (s : State) : State :=
  (s.setBuf serialBase (serial ++ List.replicate (128 - len.toNat) 0)).setSerialLen len

/-- The blob in CFG and its CRC, step 4 being entered (44_sequencer.md R150, R151). -/
def State.putBlob (blob : List Byte) (s : State) : State :=
  (((s.enterStep 3).setBuf cfgBase blob).enterStep 4).crcBlob

section
variable {serial : List Byte} {len : Byte} (hlen : serial.length = len.toNat) (hmax : len.toNat ≤ 128)
  (s : State)
include hlen hmax

theorem padded_serial_length : (serial ++ List.replicate (128 - len.toNat) (0 : Byte)).length = 128 := by
  simp [hlen]
  omega

theorem writes_putSerial : Writes [(0x00C, 1), (0x180, 128)] s (s.putSerial serial len) :=
  ((writes_setBuf (padded_serial_length hlen hmax) serialBase s).comp (writes_setSerialLen len _)).mono
    fun a => by simp [inRanges, serialBase]; omega

theorem windowBytes_putSerial :
    windowBytes (s.putSerial serial len) 0x180 128 = serial ++ List.replicate (128 - len.toNat) 0 :=
  ((writes_setSerialLen len _).window.windowBytes 0x180 128 (by decide)
    fun a _ _ => by simp [inRanges]; omega).trans
    (windowBytes_setBuf (padded_serial_length hlen hmax) (bufferFits_of (base := 0x180) (by omega)) s)

/-- The stored serial over the template (44_sequencer.md R145, R150). -/
theorem patchedBlob_putSerial :
    patchedBlob (s.putSerial serial len) = serial ++ s.params.template.toList.drop len.toNat := by
  have hstored : (s.putSerial serial len).buf serialBase len.toNat = serial := by
    rw [← Nat.add_zero serialBase, buf_slice (m := 128) _ (by omega), ← windowBytes_serial _ (Nat.le_refl _),
      windowBytes_putSerial hlen hmax, List.drop_zero, ← hlen, List.take_left]
  exact congrArg (· ++ _) hstored

end

section
variable {blob : List Byte} (hblob : blob.length = 128) (s : State)
include hblob

theorem writes_putBlob : Writes [(0x007, 1), (0x014, 4), (0x100, 128)] s (s.putBlob blob) :=
  ((((writes_enterStep 3 s).comp (writes_setBuf hblob cfgBase _)).comp (writes_enterStep 4 _)).comp
    (writes_crcBlob _)).mono fun a => by simp [inRanges, cfgBase]; omega

/-- The blob as it is when its CRC is taken. -/
theorem buf_putBlob_cfg :
    (((s.enterStep 3).setBuf cfgBase blob).enterStep 4).buf cfgBase Config.cfgLen = blob := by
  rw [buf_enterStep, ← windowBytes_cfg]
  exact windowBytes_setBuf_cfg hblob _

theorem windowBytes_putBlob : windowBytes (s.putBlob blob) 0x100 128 = blob := by
  refine ((writes_crcBlob _).window.windowBytes 0x100 128 (by decide)
    fun a _ _ => by simp [inRanges]; omega).trans ?_
  rw [windowBytes_cfg]
  exact buf_putBlob_cfg hblob s

theorem putBlob_crcOut : (s.putBlob blob).crcOut = crc16 blob :=
  (State.crcBlob_crcOut _).trans (congrArg crc16 (buf_putBlob_cfg hblob s))

theorem putBlob_crcAcc : (s.putBlob blob).crcAcc = crcFold 0x0000 blob :=
  (State.crcBlob_crcAcc _).trans (congrArg (crcFold 0x0000) (buf_putBlob_cfg hblob s))

/-- Step 4 sends the CRC of the blob (44_sequencer.md R151). -/
theorem lock_begun :
    ExchangeBegun [0x00, s.params.cmd.lock, (crc16 blob).extractLsb' 8 8, (crc16 blob).extractLsb' 0 8]
      (s.putBlob blob) (.next (exchange sendLockCrc (s.putBlob blob))) := by
  refine exchange_begun ?_ (by simp)
  unfold sendLockCrc sendLock State.transmitShort
  rw [putBlob_crcOut hblob, (writes_putBlob hblob s).control.latch.params]
  rfl

end

theorem putBlob_seqStep (blob : List Byte) (s : State) : (s.putBlob blob).seqStep = 0x04 :=
  (writes_crcBlob _).window 0x007 rfl

theorem cfgStep3_eq (s : State) : cfgStep3 s = exchange sendLockCrc (s.putBlob (patchedBlob s)) := rfl

theorem Captured.storeSerial_eq {x len : Byte} {body : List Byte} {s u : State}
    (h : Captured (.data (x :: len :: body)) s u) (hrx : u.rx 1 = len) (hwhole : len.toNat ≤ body.length)
    (hmax : body.length ≤ 62) : u.storeSerial = u.putSerial (body.take len.toNat) len := by
  unfold State.storeSerial State.putSerial
  rw [hrx, h.rxBody hwhole hmax]

/-- `t` is `s` with the serial, its blob and the blob's CRC stored, at the entry of step 4 (44_sequencer.md
R149 to R151). -/
structure SerialStored (serial blob : List Byte) (len : Byte) (s t : State) : Prop where
  writes : Writes [(0x007, 1), (0x00C, 1), (0x014, 4), (0x100, 256)] s t
  serialLen : t.serialLen = len
  stored : windowBytes t 0x180 128 = serial ++ List.replicate (128 - len.toNat) 0
  cfg : windowBytes t 0x100 128 = blob
  crcOut : t.crcOut = crc16 blob
  crcAcc : t.crcAcc = crcFold 0x0000 blob
  seqStep : t.seqStep = 0x04

theorem serialStored_put {serial blob : List Byte} {len : Byte} (hlen : serial.length = len.toNat)
    (hmax : len.toNat ≤ 128) (hblob : blob.length = 128) (s : State) :
    SerialStored serial blob len s ((s.putSerial serial len).putBlob blob) where
  writes := ((writes_putSerial hlen hmax s).comp (writes_putBlob hblob _)).mono fun a => by
    simp [inRanges]; omega
  serialLen := (writes_putBlob hblob _).window 0x00C rfl
  stored := ((writes_putBlob hblob _).window.windowBytes 0x180 128 (by decide)
    fun a _ _ => by simp [inRanges]; omega).trans (windowBytes_putSerial hlen hmax s)
  cfg := windowBytes_putBlob hblob _
  crcOut := putBlob_crcOut hblob _
  crcAcc := putBlob_crcAcc hblob _
  seqStep := putBlob_seqStep blob _

/-- The whole serial accepted: it is stored, the blob patched, and the exchange of step 4 begun. -/
theorem exec_configure_serialStored {s : State} {lim : Timeout} {len : Byte} {body : List Byte}
    (hphase : s.phase = .await lim .afterAwait) (hs : s.seqStep = 0x02)
    (hdel : Delivers lim (.data (s.params.cmd.getSerial :: len :: body)) s)
    (hwhole : len.toNat ≤ body.length) {serial blob : List Byte} (hserial : serial = body.take len.toNat)
    (hblob : blob = serial ++ s.params.template.toList.drop len.toNat) :
    ∃ u w, Captured (.data (s.params.cmd.getSerial :: len :: body)) s u ∧
      SerialStored serial blob len u w ∧
      ExchangeBegun [0x00, s.params.cmd.lock, (crc16 blob).extractLsb' 8 8, (crc16 blob).extractLsb' 0 8] w
        (exec .configure s) := by
  have hsize := hdel.data_length.2
  have hbody : body.length ≤ 62 := by simp at hsize; omega
  have hlen : serial.length = len.toNat := by simp [hserial, hwhole]
  have hcap := hdel.captured
  have hexec := exec_configure_echo hphase hs hdel
  rw [serialAccepted_whole hsize hwhole] at hexec
  have hrx := rx_one_receive (s := s) hsize
  generalize s.receive (.data (s.params.cmd.getSerial :: len :: body)) = u at hcap hexec hrx
  rw [hcap.storeSerial_eq hrx hwhole hbody, ← hserial, cfgStep3_eq,
    patchedBlob_putSerial hlen (by omega), hcap.control.latch.params, ← hblob] at hexec
  have hsize : blob.length = 128 := by simp [hblob, hlen]; omega
  have hbegun := lock_begun hsize (u.putSerial serial len)
  rw [(writes_putSerial hlen (by omega) u).control.latch.params, hcap.control.latch.params] at hbegun
  exact ⟨u, _, hcap, serialStored_put hlen (by omega) hsize u, hexec ▸ hbegun⟩

/-! ### How an exchange goes on -/

theorem txAnswer_congr {s t : State} (henv : t.env.tx = s.env.tx) (hfree : t.freeCount = s.freeCount) :
    txAnswer t = txAnswer s := by
  unfold txAnswer
  rw [henv, hfree]

/-- After the Transmit of an exchange the CORE waits, or has faulted; the Transmit stands either way. -/
theorem ExchangeBegun.next {bs : List Byte} {s : State} {out : Host.Outcome State Fault Refusal}
    (h : ExchangeBegun bs s out) :
    ∃ v t, Transmitted bs (txAnswer s) s v ∧ out = .next t ∧ SameWindowBut [(0x004, 3)] v t ∧
      KeepsInternals v t ∧
      (txAnswer s = .sent → t.phase = .await .cfg .afterAwait ∧ t.status = v.status) ∧
      (txAnswer s = .linkError → Faulted .linkError v t) := by
  obtain ⟨v, htransmitted, hsent, herror⟩ := h
  cases ho : txAnswer s with
  | sent =>
    exact ⟨v, _, ho ▸ htransmitted, hsent ho, fun _ _ => rfl,
      ⟨{ KeepsLatch.refl v with }, { KeepsLogs.refl v with }, rfl, rfl⟩, fun _ => ⟨rfl, rfl⟩, nofun⟩
  | linkError =>
    obtain ⟨t, hout, hfault⟩ := herror ho
    exact ⟨v, t, ho ▸ htransmitted, hout, hfault.window, hfault.internals, nofun, fun _ => hfault⟩

/-! ### Registers read through the window -/

theorem status_eq_of_toByte {st st' : Status} (h : st.toByte = st'.toByte) : st = st' := by
  have hl := toByte_bits st
  have hr := toByte_bits st'
  rw [h] at hl
  cases st
  cases st'
  simp_all

theorem SameWindowBut.status {rs : List (Nat × Nat)} {s t : State} (h : SameWindowBut rs s t)
    (hrs : inRanges rs 0x004 = false) : t.status = s.status :=
  status_eq_of_toByte (h 0x004 hrs)

/-- A 16-bit register is unchanged where its two bytes are (20_memory.md R61). -/
theorem SameWindowBut.crcOut {rs : List (Nat × Nat)} {s t : State} (h : SameWindowBut rs s t)
    (hhigh : inRanges rs 0x016 = false) (hlow : inRanges rs 0x017 = false) : t.crcOut = s.crcOut := by
  have h0 : byte16 t.crcOut 0 = byte16 s.crcOut 0 := h 0x016 hhigh
  have h1 : byte16 t.crcOut 1 = byte16 s.crcOut 1 := h 0x017 hlow
  rw [← byte16_append t.crcOut, ← byte16_append s.crcOut, h0, h1]

theorem SameWindowBut.crcAcc {rs : List (Nat × Nat)} {s t : State} (h : SameWindowBut rs s t)
    (hhigh : inRanges rs 0x014 = false) (hlow : inRanges rs 0x015 = false) : t.crcAcc = s.crcAcc := by
  have h0 : byte16 t.crcAcc 0 = byte16 s.crcAcc 0 := h 0x014 hhigh
  have h1 : byte16 t.crcAcc 1 = byte16 s.crcAcc 1 := h 0x015 hlow
  rw [← byte16_append t.crcAcc, ← byte16_append s.crcAcc, h0, h1]

/-- Settles O40: the checks of the response, and where they pass the writes up to step 4, whose Transmit leaves
what they wrote, whatever its outcome. -/
theorem serialFetchStoresTheSerial : Obligations.SerialFetchStoresTheSerial := by
  refine ⟨fun s hphase hs hdel => ⟨_, _, hdel.captured, exec_configure_echo hphase hs hdel, ?echoOnly⟩, ?_⟩
  case echoOnly => rw [serialAccepted_echoOnly]; exact faulted_raise _ _
  intro s len body b serial blob crc hphase hs hdel
  refine ⟨fun hcut => ⟨_, _, hdel.captured, exec_configure_echo hphase hs hdel, ?cut⟩, fun hwhole => ?whole⟩
  case cut => rw [serialAccepted_cut hdel.data_length.2 hcut]; exact faulted_raise _ _
  case whole =>
    obtain ⟨u, w, hcap, hstored, hbegun⟩ :=
      exec_configure_serialStored hphase hs hdel hwhole (serial := serial) (blob := blob) rfl rfl
    have hcrc : crc = crc16 blob := congrArg rev16 (crcFold_eq_foldl 0x0000 blob).symm
    rw [← hcrc] at hbegun
    obtain ⟨v, t, htransmitted, hexec, hwindow, -, hsent, herror⟩ := hbegun.next
    have hbefore := hcap.window.comp hstored.writes.window
    have hafter := htransmitted.window.comp hwindow
    have hall := hbefore.comp hafter
    have hlogs := hstored.writes.logs
    have htx : txAnswer s.dropRx = txAnswer w :=
      (txAnswer_congr (s := s.dropRx) (by rw [hlogs.env, hcap.answers]; rfl)
        (by rw [hlogs.freeCount, hcap.taken]; rfl)).symm
    rw [htx]
    refine ⟨t, hexec, (hafter 0x00C rfl).trans hstored.serialLen, ?serial, ?blob,
      (hafter.crcOut rfl rfl).trans (hstored.crcOut.trans hcrc.symm),
      (hafter 0x007 rfl).trans hstored.seqStep, hall 0x009 rfl, ?frame,
      hall.mono fun a => by simp [inRanges]; omega, fun h => ?sent, fun h => ?linkError⟩
    case serial =>
      exact (hafter.windowBytes 0x180 128 (by decide) fun a _ _ => by simp [inRanges]; omega).trans
        hstored.stored
    case blob =>
      exact (hafter.windowBytes 0x100 128 (by decide) fun a _ _ => by simp [inRanges]; omega).trans
        hstored.cfg
    case frame =>
      exact (hwindow.windowBytes 0x040 64 (by decide) fun a _ _ => by simp [inRanges]; omega).trans
        htransmitted.frame
    case sent =>
      obtain ⟨hwaits, hstatus⟩ := hsent h
      refine ⟨hwaits, ?_⟩
      rw [hstatus, htransmitted.window.status rfl, hstored.writes.status, hcap.status]
    case linkError =>
      obtain ⟨hcode, -, hstatus, hidle, -, -, -⟩ := herror h
      exact ⟨hidle, by rw [hstatus], hcode⟩

end Sys2Proof.Machine
end


/-! ## The attempts of step 2 (44_sequencer.md R149) -/

section
namespace Sys2Proof.Machine

/-! ### One attempt -/

/-- How an attempt of step 2 fails, with the code of its failure: by a timeout, a link error, or a response
without the echo of the request (44_sequencer.md R149). -/
def SerialFailure (echo : Byte) (o : RxOutcome) (e : ErrName) : Prop :=
  (o = .timeout ∧ e = .ioTimeout) ∨ (o = .linkError ∧ e = .linkError) ∨
    (∃ x bs, o = .data (x :: bs) ∧ x ≠ echo ∧ e = .protocolMismatch)

theorem exec_configure_serialFailed {s : State} {lim : Timeout} {o : RxOutcome} {e : ErrName}
    (hphase : s.phase = .await lim .afterAwait) (hs : s.seqStep = 0x02) (hdel : Delivers lim o s)
    (hfail : SerialFailure s.params.cmd.getSerial o e) :
    exec .configure s = .next (serialFailed e (s.receive o)) := by
  rw [exec_configure_serial hphase hs hdel]
  obtain ⟨rfl, rfl⟩ | ⟨rfl, rfl⟩ | ⟨x, bs, rfl, hx, rfl⟩ := hfail
  · rfl
  · rfl
  · have hrx : (s.receive (.data (x :: bs))).rx 0 = x :=
      rx_receive (.data (x :: bs)) s hdel.data_length.2 (by omega)
    exact congrArg _ (if_neg fun hecho => hx (hrx.symm.trans hecho))

/-- The request sent again at the start of attempt `a` (44_sequencer.md R149). -/
def State.resend (a : Byte) (s : State) : State := sendGetSerial (s.setAttempt a)

theorem transmitted_resend (a : Byte) (s : State) :
    Transmitted (shortFrame s.params.cmd.getSerial []) (txAnswer s) (s.setAttempt a) (s.resend a) :=
  transmitted_transmit (by simp [shortFrame]) (s.setAttempt a)

@[simp] theorem resend_status (a : Byte) (s : State) : (s.resend a).status = s.status := (rfl)

theorem sameWindowBut_awaitFor (rs : List (Nat × Nat)) (lim : Timeout) (s : State) :
    SameWindowBut rs s (s.awaitFor lim) := fun _ _ => rfl

theorem sameWindowBut_resend (a : Byte) (s : State) :
    SameWindowBut [(0x009, 1), (0x00B, 1), (0x040, 64)] s (s.resend a) :=
  have hattempt : SameWindowBut [(0x009, 1)] s (s.setAttempt a) := sameWindowBut_of rfl
    (fun r _ ho => readRegister_setAttempt a s r (by rintro rfl; simp [inRanges] at ho)) (fun _ _ _ _ => rfl)
  hattempt.comp (transmitted_resend a s).window

section
variable {s : State} {a : Byte} (n : Nat) (last : ErrName)

/-- Without the variant an attempt only waits again. -/
theorem serialAttempts_waits (h : s.params.serialResend = false) :
    serialAttempts (n + 1) a last s = s.attempt a := if_neg (by simp [h])

variable (h : s.params.serialResend = true) (ha : a ≠ 1)
include h ha

theorem serialAttempts_sent (htx : txAnswer s = .sent) :
    serialAttempts (n + 1) a last s = (s.resend a).awaitFor .cfg := by
  rw [serialAttempts, if_pos ⟨ha, h⟩, htx]
  rfl

/-- A link error of the request is a failed attempt (44_sequencer.md R149). -/
theorem serialAttempts_linkError (htx : txAnswer s = .linkError) :
    serialAttempts (n + 1) a last s = serialAttempts n (a + 1) .linkError (s.resend a) := by
  rw [serialAttempts, if_pos ⟨ha, h⟩, htx]
  rfl

end

theorem txAnswer_of_env {s : State} {o : TxOutcome} {rest : List TxOutcome} (h : s.env.tx = o :: rest) :
    txAnswer s = o := by
  unfold txAnswer
  rw [h]

/-! ### Attempts that fail at their request -/

/-- From `s` to `t` the request was sent `n` times, each ending in a link error, and `more` are the outcomes of
the Transmits after them. -/
structure Resent (n : Nat) (more : List TxOutcome) (s t : State) : Prop where
  linkLog : t.linkLog = s.linkLog ++
    List.replicate n (.tx (zeroPadded (shortFrame s.params.cmd.getSerial [])) .linkError)
  answers : t.env.tx = more
  params : t.params = s.params
  status : t.status = s.status
  window : SameWindowBut [(0x009, 1), (0x00B, 1), (0x040, 64)] s t

theorem resent_one {s : State} {more : List TxOutcome} (a : Byte) (h : s.env.tx = .linkError :: more) :
    Resent 1 more s (s.resend a) where
  linkLog := by rw [(transmitted_resend a s).linkLog, txAnswer_of_env h]; rfl
  answers := by rw [(transmitted_resend a s).answers]; exact congrArg List.tail h
  params := rfl
  status := rfl
  window := sameWindowBut_resend a s

theorem Resent.trans {m n : Nat} {more more' : List TxOutcome} {s t u : State} (h : Resent m more s t)
    (h' : Resent n more' t u) : Resent (m + n) more' s u where
  linkLog := by rw [h'.linkLog, h.linkLog, h.params, List.append_assoc, List.replicate_append_replicate]
  answers := h'.answers
  params := h'.params.trans h.params
  status := h'.status.trans h.status
  window := h.window.trans h'.window

theorem byte_succ_toNat {a : Byte} (h : a.toNat < 255) : (a + 1).toNat = a.toNat + 1 := by
  rw [BitVec.toNat_add]
  simp
  omega

/-- As many link errors as there are attempts for them lead to the attempts after them. -/
theorem serialAttempts_resent (n m : Nat) {a : Byte} (last : ErrName) {s : State} {more : List TxOutcome}
    (h : s.params.serialResend = true) (ha : 1 < a.toNat) (hmax : a.toNat + n < 255)
    (htx : s.env.tx = List.replicate (n + 1) .linkError ++ more) :
    ∃ t b, serialAttempts (m + (n + 1)) a last s = serialAttempts m b .linkError t ∧
      b.toNat = a.toNat + (n + 1) ∧ t.tries.toNat = a.toNat + n ∧ Resent (n + 1) more s t := by
  induction n generalizing a last s with
  | zero =>
    exact ⟨_, _, serialAttempts_linkError m last h (by rintro rfl; simp at ha) (txAnswer_of_env htx),
      byte_succ_toNat hmax, rfl, resent_one a htx⟩
  | succ n ih =>
    have hfirst : s.env.tx = .linkError :: (List.replicate (n + 1) .linkError ++ more) := htx
    have hone := resent_one a hfirst
    have hnext := byte_succ_toNat (a := a) (by omega)
    obtain ⟨t, b, hrun, hb, htries, hresent⟩ :=
      ih .linkError (a := a + 1) (s := s.resend a) h (by omega) (by omega) hone.answers
    refine ⟨t, b, ?_, by omega, by omega, Nat.add_comm 1 (n + 1) ▸ hone.trans hresent⟩
    rw [← hrun]
    exact serialAttempts_linkError _ last h (by rintro rfl; simp at ha) (txAnswer_of_env hfirst)

section
variable {n : Nat} {a : Byte} {s : State} (last : ErrName) (h : s.params.serialResend = true)
  (ha : 1 < a.toNat) (hmax : a.toNat + n < 255)
include h ha hmax

/-- The attempt after those failed ones is the first to send its request: it waits for the response. -/
theorem serialAttempts_resumes (m : Nat) {more : List TxOutcome}
    (htx : s.env.tx = List.replicate (n + 1) .linkError ++ .sent :: more) :
    ∃ t : State, serialAttempts (m + 1 + (n + 1)) a last s = t ∧ t.att.toNat = a.toNat + (n + 1) ∧
      t.tries = t.att ∧ t.status = s.status ∧ t.phase = .await .cfg .afterAwait ∧
      t.linkLog = s.linkLog ++
        List.replicate (n + 1) (.tx (zeroPadded (shortFrame s.params.cmd.getSerial [])) .linkError) ++
          [.tx (zeroPadded (shortFrame s.params.cmd.getSerial [])) .sent] ∧
      SameWindowBut [(0x009, 1), (0x00B, 1), (0x040, 64)] s t := by
  obtain ⟨v, b, hrun, hb, -, hresent⟩ := serialAttempts_resent n (m + 1) last h ha hmax htx
  have hsent := txAnswer_of_env hresent.answers
  have hsend := transmitted_resend b v
  rw [serialAttempts_sent m _ (hresent.params ▸ h) (by rintro rfl; simp at hb; omega) hsent] at hrun
  refine ⟨_, hrun, hb, rfl, ?status, rfl, ?links,
    (hresent.window.trans (sameWindowBut_resend b v)).trans (sameWindowBut_awaitFor _ .cfg _)⟩
  case status => rw [State.awaitFor_status, resend_status, hresent.status]
  case links =>
    rw [State.awaitFor_linkLog, hsend.linkLog, State.setAttempt_linkLog, hsent, hresent.params, hresent.linkLog]

/-- No attempt is left after those failed ones: the last failure is a link error. -/
theorem serialAttempts_exhausted {more : List TxOutcome}
    (htx : s.env.tx = List.replicate (n + 1) .linkError ++ more) :
    ∃ t : State, serialAttempts (n + 1) a last s = t ∧ t.errCode = 0x14 ∧ t.tries.toNat = a.toNat + n ∧
      t.phase = .idle ∧
      t.status = { s.status with err := true, done := true, busy := false, waitin := false } ∧
      t.linkLog = s.linkLog ++
        List.replicate (n + 1) (.tx (zeroPadded (shortFrame s.params.cmd.getSerial [])) .linkError) ∧
      SameWindowBut [(0x004, 3), (0x009, 1), (0x00B, 1), (0x040, 64)] s t := by
  obtain ⟨v, b, hrun, -, htries, hresent⟩ := serialAttempts_resent n 0 last h ha hmax htx
  have hfault := faulted_raise .linkError v
  rw [Nat.zero_add, serialAttempts] at hrun
  exact ⟨_, hrun, rfl, htries, rfl, hresent.status ▸ hfault.status,
    hfault.internals.logs.linkLog.trans hresent.linkLog,
    (hresent.window.comp hfault.window).mono fun r => by simp [inRanges]; omega⟩

end

/-- Settles O41: the number of the failed attempt says how many are left, and with the variant each of them
begins with the request, by induction on those that fail there. -/
theorem serialFetchRetries : Obligations.SerialFetchRetries := by
  intro s o e hphase hs hdel hfail
  have hcap := hdel.captured
  have hfailed := exec_configure_serialFailed hphase hs hdel hfail
  generalize s.receive o = u at hcap hfailed
  have hexec : exec .configure s = .next (serialAttempts (5 - s.att.toNat) (s.att + 1) e u) := by
    rw [hfailed, ← hcap.control.att]
    rfl
  have hparams := hcap.control.latch.params
  have hnext (h : s.att.toNat < 5) : (s.att + 1).toNat = s.att.toNat + 1 := byte_succ_toNat (by omega)
  have htx : u.env.tx = s.env.tx := by rw [hcap.answers]
  rw [← hparams]
  refine ⟨u, hcap, fun hresend hatt => ?waits, fun hresend h1 h5 hsent => ?sent, fun hatt => ?fifth,
    fun hresend h1 n more hn hmax hmore => ?linkErrors⟩
  case waits =>
    obtain ⟨m, hm⟩ : ∃ m, 5 - s.att.toNat = m + 1 := ⟨4 - s.att.toNat, by omega⟩
    rw [hexec, hm, serialAttempts_waits m e hresend]
    rfl
  case sent =>
    obtain ⟨m, hm⟩ : ∃ m, 5 - s.att.toNat = m + 1 := ⟨4 - s.att.toNat, by omega⟩
    have hne : s.att + 1 ≠ 1 := fun h => by
      have hone : (s.att + 1).toNat = 1 := congrArg BitVec.toNat h
      rw [hnext h5] at hone
      omega
    refine ⟨u.resend (s.att + 1), hsent ▸ transmitted_resend _ u, ?_⟩
    rw [hexec, hm, serialAttempts_sent m e hresend hne hsent]
    rfl
  case fifth =>
    rw [show 5 - s.att.toNat = 0 by omega] at hexec
    exact ⟨_, hexec, faulted_raise e u⟩
  case linkErrors =>
    obtain ⟨k, rfl⟩ : ∃ k, n = k + 1 := ⟨n - 1, by omega⟩
    have hatt := hnext (by omega)
    refine ⟨fun hless hhead => ?again, fun hall => ?last⟩
    case again =>
      obtain ⟨rest, rfl⟩ := List.head?_eq_some_iff.mp hhead
      obtain ⟨t, hrun, htatt, hfacts⟩ := serialAttempts_resumes e (a := s.att + 1) hresend (by omega)
        (by omega) (3 - s.att.toNat - k) (htx.trans hmore)
      rw [show 3 - s.att.toNat - k + 1 + (k + 1) = 5 - s.att.toNat by omega] at hrun
      exact ⟨t, hrun ▸ hexec, by omega, hfacts⟩
    case last =>
      obtain ⟨t, hrun, hcode, htries, hfacts⟩ := serialAttempts_exhausted e (a := s.att + 1) hresend
        (by omega) (by omega) (htx.trans hmore)
      rw [show k + 1 = 5 - s.att.toNat by omega] at hrun
      exact ⟨t, hrun ▸ hexec, hcode, BitVec.eq_of_toNat_eq (htries.trans (by simp; omega)), hfacts⟩

end Sys2Proof.Machine
end


/-! ## What a step of CONFIGURE emits, and how it faults (44_sequencer.md R157 to R160) -/

section
namespace Sys2Proof.Machine

/-- What a CORE step of CONFIGURE can be: its start, an await that goes on, or what follows a capture. -/
theorem exec_configure_cases {s t : State} (h : exec .configure s = .next t) :
    (s.phase = .ready .start ∧ t = configureStart s) ∨ t = s.keepWaiting ∨
      ∃ lim o, s.phase = .await lim .afterAwait ∧ Delivers lim o s ∧
        configureCaptured o (s.receive o) = some t := by
  simp only [exec, execConfigure] at h
  split at h
  next hphase =>
    cases h
    exact .inl ⟨hphase, rfl⟩
  next lim hphase =>
    unfold configureGoOn at h
    split at h
    · cases h
      exact .inr (.inl rfl)
    next o hdel =>
      split at h
      next hcaptured =>
        cases h
        exact .inr (.inr ⟨lim, o, hphase, delivers_of_delivered hdel, hcaptured⟩)
      · cases h
  · cases h

/-! ### Nothing is emitted but in step 10 (R157) -/

theorem afterTransmit_outLog {k : State → State} (o : TxOutcome) {s : State}
    (hk : (k s).outLog = s.outLog) : (afterTransmit o k s).outLog = s.outLog := by
  cases o
  · exact hk
  · rfl

theorem exchange_outLog {send : State → State} {s : State} (h : (send s).outLog = s.outLog) :
    (exchange send s).outLog = s.outLog :=
  (afterTransmit_outLog _ rfl).trans h

theorem checkExchange_outLog {k : State → State} (o : RxOutcome) (e : ErrName) {s : State}
    (hk : (k s).outLog = s.outLog) : (checkExchange o e k s).outLog = s.outLog := by
  rcases checkExchange_cases o e k s with
    ⟨-, q⟩ | ⟨-, q⟩ | ⟨b, -, ⟨-, q⟩ | ⟨-, -, q⟩ | ⟨-, -, q⟩⟩ <;> rw [q]
  · rfl
  · rfl
  · rfl
  · rfl
  · exact hk

section
variable (s : State)

theorem serialAttempts_outLog (n : Nat) (a : Byte) (last : ErrName) :
    (serialAttempts n a last s).outLog = s.outLog := by
  induction n generalizing a last s with
  | zero => rfl
  | succ n ih =>
    unfold serialAttempts
    split
    · split
      · rfl
      · exact ih _ _ _
    · rfl

theorem cfgStep2_outLog : (cfgStep2 s).outLog = s.outLog :=
  afterTransmit_outLog _ (serialAttempts_outLog _ _ _ _)

theorem cfgStep3_outLog : (cfgStep3 s).outLog = s.outLog := exchange_outLog rfl

theorem serialGoOn_outLog (o : RxOutcome) : (serialGoOn o s).outLog = s.outLog := by
  unfold serialGoOn
  split
  · split
    · unfold serialAccepted
      split
      · rfl
      · split
        · rfl
        · exact cfgStep3_outLog _
    · exact serialAttempts_outLog _ _ _ _
  · exact serialAttempts_outLog _ _ _ _
  · exact serialAttempts_outLog _ _ _ _

theorem cfgReadKey_outLog : (cfgReadKey s).outLog = s.outLog := by
  unfold cfgReadKey
  split
  · split
    · rfl
    · exact exchange_outLog rfl
  · exact exchange_outLog rfl

theorem cfgStep5_outLog : (cfgStep5 s).outLog = s.outLog := by
  unfold cfgStep5
  split
  · split
    · rfl
    · exact cfgReadKey_outLog _
  · exact cfgReadKey_outLog _

theorem sendLoadWriteKey_outLog (mask : List Byte) : (sendLoadWriteKey mask s).outLog = s.outLog := rfl

theorem cfgStep7_outLog : (cfgStep7 s).outLog = s.outLog := by
  rw [cfgStep7_eq]
  exact (exchange_outLog (sendLoadWriteKey_outLog _ _)).trans (writes_masksDerived s _ _).logs.outLog

theorem cfgStep9_outLog : (cfgStep9 s).outLog = s.outLog := by
  unfold cfgStep9
  split
  · rfl
  · exact exchange_outLog rfl

theorem configureStart_outLog : (configureStart s).outLog = s.outLog := by
  unfold configureStart
  rcases needSession_cases cfgStep1 s.beginConfigure with ⟨-, q⟩ | ⟨-, q⟩ <;> rw [q]
  · exact exchange_outLog rfl
  · rfl

/-- An accepted response of step 9 emits the output image, whatever comes of the frame of step 11 (44_sequencer.md
R157). -/
theorem cfgStep10_emits :
    (cfgStep10 s).outLog = s.outLog ++ [.persist (imageText s)] ∧ (cfgStep10 s).seqStep = 0x0B ∧
      (cfgStep10 s).status.outv = true := by
  obtain ⟨v, t, htransmitted, hexec, hwindow, hkeeps, hsent, herror⟩ := (cfgStep10_begun s).next
  cases hexec
  have hstatus := htransmitted.window.status rfl
  refine ⟨hkeeps.logs.outLog.trans htransmitted.outLog, (htransmitted.window.comp hwindow) 0x007 rfl, ?outv⟩
  cases ho : txAnswer (s.imageEmitted (imageText s)) with
  | sent => rw [(hsent ho).2, hstatus]; rfl
  | linkError => rw [(herror ho).status, hstatus]; rfl

end

/-- After a capture CONFIGURE emits nothing, or it is in step 9. -/
theorem configureCaptured_outLog {o : RxOutcome} {s t : State} (h : configureCaptured o s = some t) :
    t.outLog = s.outLog ∨ (s.seqStep = 0x09 ∧ t = checkExchange o .keyLoadFailed cfgStep10 s) := by
  unfold configureCaptured at h
  split at h <;> cases h
  case h_6 hstep => exact .inr ⟨BitVec.eq_of_toNat_eq hstep, rfl⟩
  all_goals left
  · exact checkExchange_outLog _ _ (cfgStep2_outLog s)
  · exact serialGoOn_outLog s o
  · exact checkExchange_outLog _ _ (cfgStep5_outLog s)
  · exact checkExchange_outLog _ _ (cfgStep7_outLog s)
  · exact checkExchange_outLog _ _ (cfgStep9_outLog s)
  · exact checkExchange_outLog _ _ rfl

theorem exists_cons_cons {b : List Byte} (h : 2 ≤ b.length) : ∃ x y bs, b = x :: y :: bs :=
  match b, h with
  | x :: y :: bs, _ => ⟨x, y, bs, rfl⟩

/-- A response that passes the checks of an exchange has 0x01 in byte 1 (44_sequencer.md R147). -/
theorem data_of_checks {b : List Byte} {s : State} (hmax : b.length ≤ 64)
    (hlen : 2 ≤ (s.receive (.data b)).rxLen.toNat) (hone : (s.receive (.data b)).rx 1 = 0x01) :
    ∃ x bs, b = x :: 0x01 :: bs := by
  rw [rxLen_data hmax] at hlen
  obtain ⟨x, y, bs, rfl⟩ : ∃ x y bs, b = x :: y :: bs := exists_cons_cons hlen
  rw [rx_one_receive hmax] at hone
  exact ⟨x, bs, by rw [hone]⟩

/-- Settles O44: only step 10 emits, and it follows an accepted response of step 9. -/
theorem persistOnlyAfterStepNine : Obligations.PersistOnlyAfterStepNine := by
  intro s t h hne
  obtain ⟨-, rfl⟩ | rfl | ⟨lim, o, hphase, hdel, hcaptured⟩ := exec_configure_cases h
  · exact absurd (configureStart_outLog s) hne
  · exact absurd rfl hne
  obtain hsame | ⟨hstep, rfl⟩ := configureCaptured_outLog hcaptured
  · exact absurd hsame hne
  have hcap := hdel.captured
  rcases checkExchange_cases o .keyLoadFailed cfgStep10 (s.receive o) with
    ⟨-, q⟩ | ⟨-, q⟩ | ⟨b, rfl, ⟨-, q⟩ | ⟨-, -, q⟩ | ⟨hlen, hone, q⟩⟩ <;> rw [q] at hne ⊢
  · exact absurd rfl hne
  · exact absurd rfl hne
  · exact absurd rfl hne
  · exact absurd rfl hne
  obtain ⟨x, bs, rfl⟩ := data_of_checks hdel.data_length.2 hlen hone
  obtain ⟨hout, hseq, houtv⟩ := cfgStep10_emits (s.receive (.data (x :: 0x01 :: bs)))
  rw [hcap.imageText_eq, hcap.outLog] at hout
  exact ⟨hstep, ⟨lim, x, bs, hphase, hdel⟩, hseq, houtv, hout⟩

/-! ### A fault ends the run (R159, R160) -/

/-- The shared operations leave ERR as it was (10_state.md R18). -/
theorem Act.err_eq {s t : State} (a : Act s t) : t.status.err = s.status.err := by cases a <;> rfl

/-- A step of CONFIGURE that ends with ERR, where it began without, is one that raised a fault. -/
theorem turn_raised {i : Instr} {s t : State} (h : Turn i s t) (hs : s.status.err = false)
    (ht : t.status.err = true) : ∃ e u, Made s u ∧ t = u.raise e := by
  obtain ⟨u, hmade, hends⟩ := h
  have hu : u.status.err = false :=
    hmade.keeps_invariant (P := fun u => u.status.err = false) (fun _ _ hp a => a.err_eq.trans hp) hs
  cases hends with
  | raise e => exact ⟨e, u, hmade, rfl⟩
  | _ => exact nomatch hu.symm.trans ht

theorem ErrName.code_ne_zero (e : ErrName) : e.code ≠ 0 := by cases e <;> decide

/-- Settles O45: of the endings of a step only a fault sets ERR, and the parts before it leave the latch and
the session. -/
theorem configureFaultsHaltTheRun : Obligations.ConfigureFaultsHaltTheRun := by
  intro s t hopl hs h ht
  obtain hturn | rfl | rfl := turn_exec (i := .configure) rfl nofun nofun h
  · obtain ⟨e, u, hmade, rfl⟩ := turn_raised hturn hs ht
    have hlatch : KeepsHosts s u := hmade.keeps .refl (fun _ _ _ => .trans) (fun _ _ => Act.keepsHosts)
    have ⟨hsession, hopened⟩ : KeepsSession s u :=
      hmade.keeps .refl (fun _ _ _ => .trans) (fun _ _ => Act.keepsSession)
    exact ⟨if_pos (hlatch.latch.opl.trans hopl), e.code_ne_zero, rfl, rfl, rfl, hsession, hopened,
      coreStep_idle rfl⟩
  · exact nomatch hs.symm.trans ht
  · exact nomatch hs.symm.trans ht

end Sys2Proof.Machine
end


/-! ## The whole run of CONFIGURE (44_sequencer.md R146 to R160) -/

section
namespace Sys2Proof.Machine

/-! ### What a run shows of its traffic -/

/-- The logs, the flags but TMO, and the answers of the TOKEN still to come. -/
structure Traffic where
  linkLog : List LinkEvent
  outLog : List OutEvent
  status : Status
  tx : List TxOutcome
  rx : List TokenAnswer

def State.traffic (s : State) : Traffic where
  linkLog := s.linkLog
  outLog := s.outLog
  status := { s.status with tmo := false }
  tx := s.env.tx
  rx := s.env.rx

/-- A response is delivered (43_transport.md R136). -/
def Traffic.heard (b : List Byte) (v : Traffic) : Traffic :=
  { v with linkLog := v.linkLog ++ [.rx (.data b)], rx := v.rx.tail }

/-- A frame is sent without a link error (43_transport.md R135). -/
def Traffic.sent (f : List Byte) (v : Traffic) : Traffic :=
  { v with linkLog := v.linkLog ++ [.tx (zeroPadded f) .sent], tx := v.tx.tail }

/-- The output image is emitted (44_sequencer.md R157). -/
def Traffic.imaged (img : List Byte) (v : Traffic) : Traffic :=
  { v with outLog := v.outLog ++ [.persist img], status := { v.status with outv := true } }

section
variable {s t : State}

theorem Captured.traffic {b : List Byte} (h : Captured (.data b) s t) : t.traffic = s.traffic.heard b := by
  unfold State.traffic
  rw [h.linkLog, h.outLog, h.status, h.answers]
  rfl

theorem Transmitted.traffic {f : List Byte} (h : Transmitted f .sent s t) :
    t.traffic = s.traffic.sent f := by
  unfold State.traffic
  rw [h.linkLog, h.outLog, h.window.status rfl, h.answers]
  rfl

theorem Writes.traffic {rs : List (Nat × Nat)} (h : Writes rs s t) : t.traffic = s.traffic := by
  unfold State.traffic
  rw [h.logs.linkLog, h.logs.outLog, h.status, h.logs.env]

end

/-! ### One turn of the run -/

/-- CONFIGURE runs and waits for the response of step `k`. -/
structure Awaiting (k : Byte) (s : State) : Prop where
  opl : s.opl = 0x50
  phase : s.phase = .await .cfg .afterAwait
  seqStep : s.seqStep = k

/-- What every turn of the run may change of the window: STATUS, SEQ_STEP, the lengths of the last response and
the last frame, RESULT, and the buffers of the link. -/
def linkRanges : List (Nat × Nat) := [(0x004, 1), (0x007, 1), (0x00A, 2), (0x012, 1), (0x040, 128)]

theorem inRanges_linkRanges_append (rs : List (Nat × Nat)) (a : Nat) :
    inRanges (linkRanges ++ rs) a = false ↔
      (a ≠ 0x004 ∧ a ≠ 0x007 ∧ a ≠ 0x00A ∧ a ≠ 0x00B ∧ a ≠ 0x012 ∧ (a < 0x040 ∨ 0x0C0 ≤ a)) ∧
        inRanges rs a = false := by
  rw [inRanges_append, Bool.or_eq_false_iff]
  refine and_congr_left fun _ => ?_
  simp [inRanges, linkRanges]
  omega

/-- One CORE step of the run leads from `s` to `t`, which waits in step `k` with the traffic `v`; of the window
it changes the registers and buffers of the link, and those in the ranges. -/
structure Turned (k : Byte) (v : Traffic) (rs : List (Nat × Nat)) (s t : State) : Prop where
  step : coreStep s = .next t
  awaiting : Awaiting k t
  traffic : t.traffic = v
  window : SameWindowBut (linkRanges ++ rs) s t
  params : t.params = s.params

theorem coreStep_configure {s : State} (hopl : s.opl = 0x50) (hbusy : s.phase ≠ .idle) :
    coreStep s = exec .configure s := by
  rw [coreStep_busy hbusy, latched_of_opl hopl]
  rfl

theorem Awaiting.coreStep_eq {k : Byte} {s : State} (h : Awaiting k s) : coreStep s = exec .configure s :=
  coreStep_configure h.opl (by rw [h.phase]; nofun)

/-- The TOKEN's next answer is delivered (43_transport.md R136). -/
theorem delivers_of_traffic {s : State} {v : Traffic} {b : List Byte} {rest : List TokenAnswer}
    (hv : s.traffic = v) (hrx : v.rx = .deliver (.data b) :: rest) (h1 : 1 ≤ b.length) (h2 : b.length ≤ 64) :
    Delivers .cfg (.data b) s :=
  delivers_of_env (rest := rest) (by rw [← hrx, ← hv]; rfl) (by simp [enabledAt, h1, h2])

theorem txAnswer_of_traffic {s : State} {v : Traffic} {rest : List TxOutcome}
    (hv : s.traffic = v) (htx : v.tx = .sent :: rest) : txAnswer s = .sent :=
  txAnswer_of_env (rest := rest) (by rw [← htx, ← hv]; rfl)

/-- A capture and the writes after it change of the window what a turn may. -/
theorem Captured.comp_writes {o : RxOutcome} {s u w : State} {rs : List (Nat × Nat)}
    (h : Captured o s u) (hw : SameWindowBut ((0x007, 1) :: rs) u w) :
    SameWindowBut (linkRanges ++ rs) s w :=
  (h.window.comp hw).mono fun a ha => by
    obtain ⟨hlink, hrs⟩ := (inRanges_linkRanges_append rs a).mp ha
    rw [inRanges_append]
    exact Bool.or_eq_false_iff.mpr
      ⟨by simp [inRanges]; omega, (inRanges_cons _ _ a).mpr ⟨by omega, hrs⟩⟩

section
variable {s w v t : State} {f : List Byte} {rs : List (Nat × Nat)}

/-- A turn that ends in a Transmit and a wait. -/
theorem turned_of_transmitted (hopl : s.opl = 0x50) (hbusy : s.phase ≠ .idle)
    (hbefore : SameWindowBut (linkRanges ++ rs) s w) (htransmitted : Transmitted f .sent w v)
    (hexec : exec .configure s = .next t) (hphase : t.phase = .await .cfg .afterAwait)
    (hseq : t.seqStep = v.seqStep) (htraffic : t.traffic = v.traffic) (hafter : SameWindowBut rs v t) :
    Turned w.seqStep (w.traffic.sent f) rs s t := by
  have hlatch := (exec_keepsHosts hexec).latch
  refine ⟨(coreStep_configure hopl hbusy).trans hexec,
    ⟨hlatch.opl.trans hopl, hphase, hseq.trans (htransmitted.window 0x007 rfl)⟩,
    htraffic.trans htransmitted.traffic, ?window, hlatch.params⟩
  refine (hbefore.comp (htransmitted.window.comp hafter)).mono fun a ha => ?_
  obtain ⟨hlink, hrs⟩ := (inRanges_linkRanges_append rs a).mp ha
  rw [inRanges_append, inRanges_append [(0x00B, 1), (0x040, 64)], ha, hrs]
  simp [inRanges]
  omega

/-- A turn that ends in an exchange whose frame is sent. -/
theorem ExchangeBegun.turned (h : ExchangeBegun f w (exec .configure s)) (hopl : s.opl = 0x50)
    (hbusy : s.phase ≠ .idle) (hbefore : SameWindowBut (linkRanges ++ rs) s w) {rest : List TxOutcome}
    (htx : w.traffic.tx = .sent :: rest) :
    ∃ t, Turned w.seqStep (w.traffic.sent f) rs s t ∧ SameWindowBut [(0x00B, 1), (0x040, 64)] w t ∧
      t.env.draws = w.env.draws := by
  obtain ⟨v, htransmitted, hsent, -⟩ := h
  have ho := txAnswer_of_traffic rfl htx
  rw [ho] at htransmitted
  exact ⟨_, turned_of_transmitted hopl hbusy hbefore htransmitted (hsent ho) rfl rfl rfl (fun _ _ => rfl),
    htransmitted.window, by rw [htransmitted.answers]⟩

end

/-! ### The turns, one for each step that waits -/

/-- The start: the frame of step 1 (44_sequencer.md R146, R148). -/
theorem turned_start {s : State} {rest : List TxOutcome} (hstart : s.phase = .ready .start)
    (hopl : s.opl = 0x50) (hopen : s.status.opened = true) (htx : s.env.tx = .sent :: rest) :
    ∃ t, Turned 1 (Traffic.sent [0x00, s.params.cmd.isBuild]
        { s.traffic with status := { s.traffic.status with outv := false } }) [] s t ∧
      t.env.draws = s.env.draws := by
  have hbefore : SameWindowBut (linkRanges ++ []) s (s.beginConfigure.enterStep 1) := sameWindowBut_of rfl
    (fun a _ ho => by
      obtain ⟨hlink, -⟩ := (inRanges_linkRanges_append [] a).mp ho
      rw [readRegister_enterStep _ _ _ (by omega), readRegister_beginConfigure _ _ (by omega)])
    (fun _ _ _ _ => rfl)
  obtain ⟨t, hturn, -, hdraws⟩ := ExchangeBegun.turned (w := s.beginConfigure.enterStep 1)
    (configureStartsWithIsBuild s hstart hopen) hopl (by rw [hstart]; nofun) hbefore htx
  exact ⟨t, hturn, hdraws⟩

section
variable {s : State} {x : Byte} {b r : List Byte} {txs : List TxOutcome} {rxs : List TokenAnswer}
  {v : Traffic}

/-- The first half of a turn from a wait: the response accepted in step `k`, and what it leaves. -/
theorem Awaiting.accepted {k : Byte} {e : ErrName} (h : Awaiting k s) (hk : (k, e) ∈ exchangeSteps)
    (hv : s.traffic = v) (hrx : v.rx = .deliver (.data (x :: 0x01 :: r)) :: rxs) (hr : r.length ≤ 62) :
    ∃ u, Captured (.data (x :: 0x01 :: r)) s u ∧ u.traffic = v.heard (x :: 0x01 :: r) ∧
      exec .configure s = .next (afterExchange k u) := by
  have hdel := delivers_of_traffic hv hrx (by simp) (by simp; omega)
  exact ⟨_, hdel.captured, hv ▸ hdel.captured.traffic, exec_configure_accepted h.phase hk h.seqStep hdel⟩

/-- Step 1's response, and the request of step 2 (44_sequencer.md R148, R149). -/
theorem Awaiting.turned_step1 (h : Awaiting 1 s) (hv : s.traffic = v)
    (hrx : v.rx = .deliver (.data (x :: 0x01 :: r)) :: rxs) (htx : v.tx = .sent :: txs) (hr : r.length ≤ 62) :
    ∃ t, Turned 2 ((v.heard (x :: 0x01 :: r)).sent [0x00, s.params.cmd.getSerial]) [(0x009, 1)] s t ∧
      t.tries = 1 ∧ t.env.draws = s.env.draws := by
  obtain ⟨u, hcap, hu, hexec⟩ := h.accepted (e := .notConfigured) (by decide) hv hrx hr
  obtain ⟨w, htransmitted, hsent, -⟩ := cfgStep2_begun u
  have ho : txAnswer u = .sent := txAnswer_of_traffic hu htx
  have hexec : exec .configure s = .next (w.attempt 1) := hexec.trans (congrArg _ (hsent ho))
  rw [ho, hcap.control.latch.params] at htransmitted
  have hattempt : SameWindowBut [(0x009, 1)] w (w.attempt 1) := sameWindowBut_of rfl
    (fun a _ ho => readRegister_attempt 1 w a (by rintro rfl; simp [inRanges] at ho)) (fun _ _ _ _ => rfl)
  have hturn := turned_of_transmitted h.opl (by rw [h.phase]; nofun)
    (hcap.comp_writes ((writes_enterStep 2 u).window.mono fun a ha =>
      (inRanges_cons _ [] a).mpr ⟨((inRanges_cons _ _ a).mp ha).1, rfl⟩))
    htransmitted hexec rfl rfl rfl hattempt
  refine ⟨w.attempt 1, ?turned, rfl, ?draws⟩
  case turned =>
    rw [← hu]
    exact hturn
  case draws => rw [State.attempt_env, htransmitted.answers, State.enterStep_env, hcap.answers]

/-- Step 2's response, the blob of step 3, and the frame of step 4 (44_sequencer.md R149 to R151). -/
theorem Awaiting.turned_step2 (h : Awaiting 2 s) (hv : s.traffic = v) {len : Byte}
    {serial tail blob : List Byte} (hb : b = s.params.cmd.getSerial :: len :: (serial ++ tail))
    (hrx : v.rx = .deliver (.data b) :: rxs) (htx : v.tx = .sent :: txs) (hmax : b.length ≤ 64)
    (hlen : serial.length = len.toNat) (hblob : blob = serial ++ s.params.template.toList.drop len.toNat) :
    ∃ t, Turned 4 ((v.heard b).sent
          [0x00, s.params.cmd.lock, (crc16 blob).extractLsb' 8 8, (crc16 blob).extractLsb' 0 8])
        [(0x00C, 1), (0x014, 4), (0x100, 256)] s t ∧
      t.serialLen = len ∧ windowBytes t 0x180 128 = serial ++ List.replicate (128 - len.toNat) 0x00 ∧
      windowBytes t 0x100 128 = blob ∧ t.crcOut = crc16 blob ∧ t.crcAcc = blob.foldl crcStep 0x0000 ∧
      t.env.draws = s.env.draws := by
  have hdel := delivers_of_traffic hv hrx (by simp [hb]) hmax
  subst hb
  obtain ⟨u, w, hcap, hstored, hbegun⟩ := exec_configure_serialStored h.phase h.seqStep hdel (by simp [hlen])
    (serial := serial) (by rw [← hlen, List.take_left]) hblob
  have hw := hstored.writes.traffic.trans (hv ▸ hcap.traffic)
  obtain ⟨t, hturn, hafter, hdraws⟩ := hbegun.turned h.opl (by rw [h.phase]; nofun)
    (hcap.comp_writes hstored.writes.window) (by rw [hw]; exact htx)
  rw [hstored.seqStep, hw] at hturn
  refine ⟨t, hturn, (hafter 0x00C rfl).trans hstored.serialLen, ?serial, ?blob,
    (hafter.crcOut rfl rfl).trans hstored.crcOut, ?crcAcc, ?draws⟩
  case serial =>
    exact (hafter.windowBytes 0x180 128 (by decide) fun a _ _ => by simp [inRanges]; omega).trans
      hstored.stored
  case blob =>
    exact (hafter.windowBytes 0x100 128 (by decide) fun a _ _ => by simp [inRanges]; omega).trans hstored.cfg
  case crcAcc => rw [hafter.crcAcc rfl rfl, hstored.crcAcc, crcFold_eq_foldl]
  case draws => rw [hdraws, hstored.writes.logs.env, hcap.answers]

/-- Step 4's response, the keys of step 5, and the frame of step 6 (44_sequencer.md R151 to R153). -/
theorem Awaiting.turned_step4 (h : Awaiting 4 s) (hv : s.traffic = v)
    (hrx : v.rx = .deliver (.data (x :: 0x01 :: r)) :: rxs) (htx : v.tx = .sent :: txs) (hr : r.length ≤ 62)
    {d0 d1 : Draw} {ds : List Draw} (hdraws : s.env.draws = d0 :: d1 :: ds)
    (hw : wsup s = true → s.wkeyLen = 32) (hr' : rsup s = true → s.rkeyLen = 32) {wkey rkey : List Byte}
    (hwkey : wkey = if wsup s then windowBytes s 0x200 32 else d0.toList)
    (hrkey : rkey = if rsup s then windowBytes s 0x220 32 else (if wsup s then d0 else d1).toList) :
    ∃ t, Turned 6 ((v.heard (x :: 0x01 :: r)).sent ([0x00, s.params.cmd.loadTransKey] ++ wkey))
        [(0x00E, 2), (0x200, 64)] s t ∧
      t.wkeyLen = 32 ∧ t.rkeyLen = 32 ∧ windowBytes t 0x200 32 = wkey ∧ windowBytes t 0x220 32 = rkey := by
  have hdel := delivers_of_traffic hv hrx (by simp) (by simp; omega)
  obtain ⟨u, hcap, -, -, -, hkeys⟩ := keyAcquisition s x r h.phase h.seqStep hdel
  obtain ⟨w, hseq, hwlen, hrlen, hwkey', hrkey', hstatus, hwindow, hcontrol, hout, hlink, -, henv, hbegun⟩ :=
    hkeys hw hr' d0 d1 ds hdraws
  have htraffic : w.traffic = v.heard (x :: 0x01 :: r) := by
    rw [← hv, ← hcap.traffic]
    unfold State.traffic
    rw [hlink, hout, hstatus, henv]
  obtain ⟨t, hturn, hafter, -⟩ := hbegun.turned h.opl (by rw [h.phase]; nofun) (hcap.comp_writes hwindow)
    (by rw [htraffic]; exact htx)
  rw [hseq, htraffic] at hturn
  refine ⟨t, hwkey ▸ hturn, (hafter 0x00E rfl).trans hwlen, (hafter 0x00F rfl).trans hrlen, ?wkey, ?rkey⟩
  case wkey =>
    rw [hafter.windowBytes 0x200 32 (by decide) fun a _ _ => by simp [inRanges]; omega, hwkey]
    exact hwkey'
  case rkey =>
    rw [hafter.windowBytes 0x220 32 (by decide) fun a _ _ => by simp [inRanges]; omega, hrkey]
    exact hrkey'

/-- Step 6's response, the masks of step 7, and the frame of step 8 (44_sequencer.md R153 to R155). -/
theorem Awaiting.turned_step6 (h : Awaiting 6 s) (hv : s.traffic = v)
    (hrx : v.rx = .deliver (.data (x :: 0x01 :: r)) :: rxs) (htx : v.tx = .sent :: txs) (hr : r.length ≤ 62)
    {wkey rkey : List Byte} (hwkey : windowBytes s 0x200 32 = wkey) (hrkey : windowBytes s 0x220 32 = rkey) :
    ∃ t, Turned 8 ((v.heard (x :: 0x01 :: r)).sent ([0x00, s.params.cmd.loadWriteKey] ++ deriveMask wkey))
        [(0x260, 36), (0x2A0, 36), (0x2E0, 64)] s t ∧
      windowBytes t 0x260 36 = deriveMask wkey ∧ windowBytes t 0x2A0 36 = deriveMask rkey ∧
      windowBytes t 0x2E0 32 = digest1 rkey ∧ windowBytes t 0x300 32 = digest2 rkey := by
  obtain ⟨u, hcap, hu, hexec⟩ := h.accepted (e := .keyLoadFailed) (by decide) hv hrx hr
  have hbegun := cfgStep7_begun u
  rw [hcap.windowBytes_above 0x200 32 (by decide) (by decide), hwkey, hcap.control.latch.params,
    hcap.windowBytes_above 0x220 32 (by decide) (by decide), hrkey] at hbegun
  have hwrites := writes_masksDerived u wkey rkey
  obtain ⟨hwmask, hrmask, hdigest1, hdigest2⟩ := windowBytes_masksDerived u wkey rkey
  have hw := hwrites.traffic.trans hu
  obtain ⟨t, hturn, hafter, -⟩ := (hexec ▸ hbegun).turned h.opl (by rw [h.phase]; nofun)
    (hcap.comp_writes hwrites.window) (by rw [hw]; exact htx)
  rw [hw] at hturn
  have hkept (base n : Nat) (h1 : 0x0C0 ≤ base) (h2 : base + n ≤ 0x400) :=
    hafter.windowBytes base n h2 fun a _ _ => by simp [inRanges]; omega
  exact ⟨t, hturn, (hkept 0x260 36 (by decide) (by decide)).trans hwmask,
    (hkept 0x2A0 36 (by decide) (by decide)).trans hrmask,
    (hkept 0x2E0 32 (by decide) (by decide)).trans hdigest1,
    (hkept 0x300 32 (by decide) (by decide)).trans hdigest2⟩

/-- Step 8's response and the frame of step 9 (44_sequencer.md R155, R156). -/
theorem Awaiting.turned_step8 (h : Awaiting 8 s) (hv : s.traffic = v)
    (hrx : v.rx = .deliver (.data (x :: 0x01 :: r)) :: rxs) (htx : v.tx = .sent :: txs) (hr : r.length ≤ 62)
    (hlen : s.attkeyLen = 32) :
    ∃ t, Turned 9 ((v.heard (x :: 0x01 :: r)).sent
      ([0x00, s.params.cmd.loadAttestKey] ++ windowBytes s 0x240 32)) [] s t := by
  have hdel := delivers_of_traffic hv hrx (by simp) (by simp; omega)
  obtain ⟨u, hcap, -, hkey⟩ := attestationKeyCheckedBeforeSending s x r h.phase h.seqStep hdel
  have hw : (u.enterStep 9).traffic = v.heard (x :: 0x01 :: r) :=
    (writes_enterStep 9 u).traffic.trans (hv ▸ hcap.traffic)
  obtain ⟨t, hturn, -⟩ := ExchangeBegun.turned (w := u.enterStep 9) (hkey hlen) h.opl
    (by rw [h.phase]; nofun) (hcap.comp_writes (writes_enterStep 9 u).window) (by rw [hw]; exact htx)
  exact ⟨t, hw ▸ hturn⟩

/-- Step 9's response, the output image of step 10, and the frame of step 11 (44_sequencer.md R156 to R158). -/
theorem Awaiting.turned_step9 (h : Awaiting 9 s) (hv : s.traffic = v)
    (hrx : v.rx = .deliver (.data (x :: 0x01 :: r)) :: rxs) (htx : v.tx = .sent :: txs)
    (hr : r.length ≤ 62) :
    ∃ t, Turned 11 (((v.heard (x :: 0x01 :: r)).imaged (imageText s)).sent [0x00, s.params.cmd.bootloader])
      [] s t := by
  obtain ⟨u, hcap, hu, hexec⟩ := h.accepted (e := .keyLoadFailed) (by decide) hv hrx hr
  have hbegun := cfgStep10_begun u
  rw [hcap.imageText_eq, hcap.control.latch.params] at hbegun
  have hw : (u.imageEmitted (imageText s)).traffic = (v.heard (x :: 0x01 :: r)).imaged (imageText s) := by
    rw [← hu]
    rfl
  have hwindow : SameWindowBut [(0x004, 1), (0x007, 1)] u (u.imageEmitted (imageText s)) :=
    sameWindowBut_of rfl (fun a _ ho => by
      simp [inRanges] at ho
      unfold State.imageEmitted
      rw [readRegister_enterStep _ _ _ (by omega), readRegister_setOutv _ _ (by omega),
        readRegister_emit, readRegister_enterStep _ _ _ (by omega)]) (fun _ _ _ _ => rfl)
  obtain ⟨t, hturn, -⟩ := (hexec ▸ hbegun).turned (rs := []) h.opl (by rw [h.phase]; nofun)
    ((hcap.window.comp hwindow).mono fun a ha => by
      obtain ⟨hlink, -⟩ := (inRanges_linkRanges_append [] a).mp ha
      simp [inRanges]
      omega) (by rw [hw]; exact htx)
  exact ⟨t, hw ▸ hturn⟩

/-- Step 11's response and the end of the run (44_sequencer.md R158). -/
theorem Awaiting.finishes (h : Awaiting 11 s) (hv : s.traffic = v)
    (hrx : v.rx = .deliver (.data (x :: 0x01 :: r)) :: rxs) (hr : r.length ≤ 62) :
    ∃ t, coreStep s = .next t ∧ t.status = v.status.onEnd ∧ t.phase = .idle ∧ t.seqStep = 11 ∧
      t.outLog = v.outLog ∧ t.linkLog = v.linkLog ++ [.rx (.data (x :: 0x01 :: r))] ∧
      SameWindowBut (linkRanges ++ []) s t := by
  obtain ⟨u, hcap, hu, hexec⟩ := h.accepted (e := .bootloaderTransitionFailed) (by decide) hv hrx hr
  have hend := ended_finish u
  have hstatus : u.status = v.status := by rw [hcap.status, ← hv]; rfl
  have hwindow := hcap.window.comp hend.window
  refine ⟨_, h.coreStep_eq.trans hexec, hstatus ▸ hend.flags.status, rfl,
    (hwindow 0x007 rfl).trans h.seqStep, ?outLog, ?linkLog, hwindow.mono fun a ha => ?window⟩
  case outLog => exact hend.internals.logs.outLog.trans (congrArg Traffic.outLog hu)
  case linkLog => exact hend.internals.logs.linkLog.trans (congrArg Traffic.linkLog hu)
  case window =>
    simp [inRanges, linkRanges] at ha ⊢
    omega

end

/-- Settles O46: the eight turns one after another, each with the traffic the one before leaves, and what a turn
writes being outside what the later ones change. -/
theorem configureRunCompletes : Obligations.ConfigureRunCompletes := by
  intro s len serial tail r1 r4 r6 r8 r9 r11 x1 x4 x6 x8 x9 x11 d0 d1 draws tx rx c ok r2 wsup rsup wkey rkey
    blob crc wmask rmask attkey sent got hstart hopl hopen hatt hwlen hrlen hserial hr2 hr1 hr4 hr6 hr8 hr9 hr11
    htx hdraws hrx
  -- the start, and the turns of steps 1 and 2
  obtain ⟨s1, h1, hdraws1⟩ := turned_start hstart hopl hopen htx
  obtain ⟨s2, h2, htries, hdraws2⟩ := h1.awaiting.turned_step1 h1.traffic hrx (congrArg List.tail htx) hr1
  have hparams2 := h2.params.trans h1.params
  obtain ⟨s4, h4, hslen, hstored, hcfg, hcrcOut, hcrcAcc, hdraws4⟩ :=
    h2.awaiting.turned_step2 (b := r2) (blob := blob) h2.traffic (by rw [hparams2])
      (congrArg List.tail hrx) (congrArg (List.tail^[2]) htx) hr2 hserial (by rw [hparams2])
  have hparams4 := h4.params.trans hparams2
  have hto4 := (h1.window.comp h2.window).comp h4.window
  have hkept4 (base : Nat) (hlow : 0x200 ≤ base) (hhigh : base + 32 ≤ 0x400) :
      windowBytes s4 base 32 = windowBytes s base 32 :=
    hto4.windowBytes base 32 hhigh fun a _ _ => by simp [inRanges, linkRanges]; omega
  have hflags : s4.keyFlags = s.keyFlags := hto4 0x00D rfl
  have hwsup : Machine.wsup s4 = wsup := congrArg (·.getLsbD 0) hflags
  have hrsup : Machine.rsup s4 = rsup := congrArg (·.getLsbD 1) hflags
  have hwlen4 : s4.wkeyLen = s.wkeyLen := hto4 0x00E rfl
  have hrlen4 : s4.rkeyLen = s.rkeyLen := hto4 0x00F rfl
  -- the keys, the masks, and the frames that carry them
  obtain ⟨s6, h6, hwlen6, hrlen6, hwkey, hrkey⟩ := h4.awaiting.turned_step4 (wkey := wkey) (rkey := rkey)
    h4.traffic (congrArg (List.tail^[2]) hrx) (congrArg (List.tail^[3]) htx) hr4
    (hdraws4.trans (hdraws2.trans (hdraws1.trans hdraws))) (by rwa [hwsup, hwlen4]) (by rwa [hrsup, hrlen4])
    (by rw [hwsup, hkept4 0x200 (by decide) (by decide)])
    (by rw [hwsup, hrsup, hkept4 0x220 (by decide) (by decide)])
  have hparams6 := h6.params.trans hparams4
  obtain ⟨s8, h8, hwmask, hrmask, hdigest1, hdigest2⟩ := h6.awaiting.turned_step6 h6.traffic
    (congrArg (List.tail^[3]) hrx) (congrArg (List.tail^[4]) htx) hr6 hwkey hrkey
  have hparams8 := h8.params.trans hparams6
  have hto8 := (hto4.comp h6.window).comp h8.window
  have hattkey : windowBytes s8 0x240 32 = attkey :=
    hto8.windowBytes 0x240 32 (by decide) fun a _ _ => by simp [inRanges, linkRanges]; omega
  obtain ⟨s9, h9⟩ := h8.awaiting.turned_step8 h8.traffic
    (congrArg (List.tail^[4]) hrx) (congrArg (List.tail^[5]) htx) hr8 ((hto8 0x010 rfl).trans hatt)
  -- the output image, and the end
  obtain ⟨s11, h11⟩ := h9.awaiting.turned_step9 h9.traffic (congrArg (List.tail^[5]) hrx)
    (congrArg (List.tail^[6]) htx) hr9
  obtain ⟨t, hend, hstatus, hphase, hseq, hout, hlink, hwindow⟩ :=
    h11.awaiting.finishes h11.traffic (congrArg (List.tail^[6]) hrx) hr11
  have hfrom8 := (h9.window.comp h11.window).comp hwindow
  have hfrom6 := h8.window.comp hfrom8
  have hfrom4 := h6.window.comp hfrom6
  have hkept8 (base n : Nat) (hlow : 0x0C0 ≤ base) (hhigh : base + n ≤ 0x400) :
      windowBytes t base n = windowBytes s8 base n :=
    hfrom8.windowBytes base n hhigh fun a _ _ => by simp [inRanges, linkRanges]; omega
  have hkept6 (base : Nat) (hlow : 0x200 ≤ base) (hhigh : base + 32 ≤ 0x240) :
      windowBytes t base 32 = windowBytes s6 base 32 :=
    hfrom6.windowBytes base 32 (by omega) fun a _ _ => by simp [inRanges, linkRanges]; omega
  have hkept4 (base : Nat) (hlow : 0x100 ≤ base) (hhigh : base + 128 ≤ 0x200) :
      windowBytes t base 128 = windowBytes s4 base 128 :=
    hfrom4.windowBytes base 128 (by omega) fun a _ _ => by simp [inRanges, linkRanges]; omega
  have himage : imageText s9 = hexText wmask ++ [0x0A] ++ hexText rmask ++ [0x0A] := by
    unfold imageText
    rw [h9.window.windowBytes 0x260 36 (by decide) fun a _ _ => by simp [inRanges, linkRanges]; omega,
      h9.window.windowBytes 0x2A0 36 (by decide) fun a _ _ => by simp [inRanges, linkRanges]; omega,
      hwmask, hrmask]
  refine ⟨t, ⟨s1, h1.step, s2, h2.step, s4, h4.step, s6, h6.step, s8, h8.step, s9, h9.step, s11, h11.step,
    t, hend, rfl⟩, hstatus, hphase, hseq, ((h4.window.comp hfrom4) 0x009 rfl).trans htries,
    (hfrom4 0x00C rfl).trans hslen, (hfrom6 0x00E rfl).trans hwlen6, (hfrom6 0x00F rfl).trans hrlen6,
    (hfrom4.crcOut rfl rfl).trans hcrcOut, (hfrom4.crcAcc rfl rfl).trans hcrcAcc,
    (hkept8 0x2E0 32 (by decide) (by decide)).trans hdigest1,
    (hkept8 0x300 32 (by decide) (by decide)).trans hdigest2,
    (hkept4 0x180 (by decide) (by decide)).trans hstored, (hkept4 0x100 (by decide) (by decide)).trans hcfg,
    (hkept6 0x200 (by decide) (by decide)).trans hwkey, (hkept6 0x220 (by decide) (by decide)).trans hrkey,
    (hkept8 0x260 36 (by decide) (by decide)).trans hwmask,
    (hkept8 0x2A0 36 (by decide) (by decide)).trans hrmask, ?outLog, ?linkLog⟩
  case outLog =>
    rw [hout, ← himage]
    rfl
  case linkLog =>
    rw [hlink, ← hattkey, hparams8, hparams6, hparams4, hparams2, h1.params, h9.params, hparams8]
    simp only [Traffic.sent, Traffic.heard, Traffic.imaged, State.traffic, List.append_assoc,
      List.cons_append, List.nil_append]
    rfl

end Sys2Proof.Machine
end

/-! ## SEED_IN (45_supplementary.md R165) -/

section
namespace Sys2Proof.Machine

theorem writeByte_seedIn (s : State) (n : Byte) : s.writeByte 0x013 n = writeSeedIn n s := rfl

/-- SEED_CHUNK as the HOST reads it (10_state.md R48). -/
theorem windowBytes_seedChunk (s : State) {n : Nat} (h : n ≤ 20) :
    windowBytes s 0x320 n = s.buf chunkBase n :=
  windowBytes_eq (bufferFits_of (by omega)) s

/-- Settles O17: the commit is accepted under exactly the four conditions, and copies what the HOST reads. -/
theorem seedInCommitsAChunk : Obligations.SeedInCommitsAChunk := by
  refine fun s n => ⟨fun haccepts => ?commit, fun hrejects => ?dropped⟩
  case commit =>
    have ⟨_, _, _, hlen⟩ := haccepts
    rw [writeByte_seedIn, windowBytes_seedChunk s hlen]
    exact if_pos ((seedInAccepts_iff n s).mpr haccepts)
  case dropped => exact (writeByte_seedIn s n).trans (if_neg (mt (seedInAccepts_iff n s).mp hrejects))

end Sys2Proof.Machine
end

/-! ## WINK, BOOT and BOOT_DESTROY (45_supplementary.md R167 to R169) -/

section
namespace Sys2Proof.Machine

/-! ### The two forms of a frame on the link (30_encoding.md R86, R87) -/

theorem transmitted_transmitShort {p : List Byte} (hp : p.length ≤ shortMax) (c : Byte) (s : State) :
    Transmitted (shortFrame c p) (txAnswer s) s (s.transmitShort c p) :=
  transmitted_transmit (bs := shortFrame c p) (by unfold shortMax at hp; simp [shortFrame]; omega) s

theorem transmitted_transmitLong {s : State} {p : List Byte} (hp : p.length ≤ longMax s.params.longBcnt)
    (c : Byte) : Transmitted (longFrame s c p) (txAnswer s) s (s.transmitLong c p) := by
  have hlen := longBytes_length_le c hp
  rw [← longFrame_eq s c (by rw [longBytes_length] at hlen; omega)]
  exact transmitted_transmit hlen s

/-! ### The last frame of an operation -/

/-- The Transmit of these bytes from `s` is the last part of an operation that answers `out`: its end, or the
fault LinkError (43_transport.md R135). -/
def LastFrame (bs : List Byte) (s : State) (out : Host.Outcome State Fault Refusal) : Prop :=
  (txAnswer s = .sent → ∃ u t, Transmitted bs .sent s u ∧ out = .next t ∧ Ended u t) ∧
    (txAnswer s = .linkError →
      ∃ u t, Transmitted bs .linkError s u ∧ out = .next t ∧ Faulted .linkError u t)

theorem lastFrame_afterTransmit {bs : List Byte} {s u : State} (h : Transmitted bs (txAnswer s) s u) :
    LastFrame bs s (.next (afterTransmit (txAnswer s) State.finish u)) := by
  refine ⟨fun hsent => ?_, fun herror => ?_⟩
  · rw [hsent] at h ⊢
    exact ⟨u, _, h, rfl, ended_finish u⟩
  · rw [herror] at h ⊢
    exact ⟨u, _, h, rfl, faulted_raise .linkError u⟩

/-- An operation that answers `out` transmits two frames from `s`, a link error of the first stopping it before
the second (45_supplementary.md R168, R169). -/
def TwoFrames (first second : List Byte) (s : State) (out : Host.Outcome State Fault Refusal) : Prop :=
  (txAnswer s = .linkError →
      ∃ u t, Transmitted first .linkError s u ∧ out = .next t ∧ Faulted .linkError u t) ∧
    (txAnswer s = .sent → ∃ u, Transmitted first .sent s u ∧ LastFrame second u out)

theorem twoFrames_sendBoth {f g : List Byte} {send send' : State → State} {s : State}
    (h : Transmitted f (txAnswer s) s (send s))
    (h' : Transmitted g (txAnswer (send s)) (send s) (send' (send s))) :
    TwoFrames f g s (.next (sendBoth send send' s)) := by
  unfold sendBoth
  refine ⟨fun herror => ?_, fun hsent => ?_⟩
  · rw [herror] at h ⊢
    exact ⟨_, _, h, rfl, faulted_raise .linkError _⟩
  · rw [hsent] at h ⊢
    exact ⟨_, h, lastFrame_afterTransmit h'⟩

section
variable {s : State} (hopen : s.status.opened = true)
include hopen

theorem exec_wink_open :
    exec .wink s = .next (afterTransmit (txAnswer s) State.finish (sendWink s)) :=
  congrArg Host.Outcome.next (needSession_open hopen _)

theorem exec_boot_open : exec .boot s = .next (sendBoth sendBootloaderShort sendBootloaderLong s) :=
  congrArg Host.Outcome.next (needSession_open hopen _)

theorem exec_bootDestroy_open :
    exec .bootDestroy s = .next (sendBoth sendBootloaderDestroyShort sendBootloaderDestroyLong s) :=
  congrArg Host.Outcome.next (needSession_open hopen _)

theorem wink_lastFrame : LastFrame (longFrame s s.params.cmd.wink []) s (exec .wink s) :=
  exec_wink_open hopen ▸ lastFrame_afterTransmit (transmitted_transmitLong (Nat.zero_le _) _)

theorem boot_twoFrames :
    TwoFrames (shortFrame s.params.cmd.bootloader []) (longFrame s s.params.cmd.bootloader []) s
      (exec .boot s) :=
  exec_boot_open hopen ▸ twoFrames_sendBoth (transmitted_transmitShort (Nat.zero_le _) _ s)
    (transmitted_transmitLong (s := sendBootloaderShort s) (Nat.zero_le _) _)

theorem bootDestroy_twoFrames :
    TwoFrames (shortFrame s.params.cmd.bootloaderDestroy []) (longFrame s s.params.cmd.bootloaderDestroy [])
      s (exec .bootDestroy s) :=
  exec_bootDestroy_open hopen ▸ twoFrames_sendBoth (transmitted_transmitShort (Nat.zero_le _) _ s)
    (transmitted_transmitLong (s := sendBootloaderDestroyShort s) (Nat.zero_le _) _)

end

/-- Settles O33: the session check, then WINK's one frame or the two forms of the other two. -/
theorem winkAndBootSendTheirFrames : Obligations.WinkAndBootSendTheirFrames := by
  refine fun s => ⟨fun hclosed i hi => ?closed, fun hopen => ?opened⟩
  case closed =>
    simp only [List.mem_cons, List.not_mem_nil, or_false] at hi
    obtain rfl | rfl | rfl := hi
    · exact noSession_of_needSession hclosed rfl
    · exact noSession_of_needSession hclosed rfl
    · exact noSession_of_needSession hclosed rfl
  case opened =>
    obtain ⟨hended, hfaulted⟩ := wink_lastFrame hopen
    refine ⟨hended, hfaulted, ?_⟩
    rintro i c (⟨rfl, rfl⟩ | ⟨rfl, rfl⟩)
    · exact boot_twoFrames hopen
    · exact bootDestroy_twoFrames hopen

end Sys2Proof.Machine
end

/-! ## What the two streams share (45_supplementary.md R161, R162) -/

section
namespace Sys2Proof.Machine

/-- A stream answers `out`: after `u` it appends the diagnostic, and its loop goes on from the top (R162). -/
def LoopsAfterDiag (e : ErrName) (u : State) (out : Host.Outcome State Fault Refusal) : Prop :=
  ∃ v, Diagnosed e u v ∧ out = .next { v with phase := .ready .loopTop }

theorem loopsAfterDiag (e : ErrName) (u : State) :
    LoopsAfterDiag e u (.next (u.diag e).atLoopTop) := ⟨_, diagnosed_diag e u, rfl⟩

/-- A stream that answers `out` sends a frame from `s`: it waits without a bound for the response, or its loop
goes on after a link error (R163, R164). -/
def StreamRequest (bs : List Byte) (s : State) (out : Host.Outcome State Fault Refusal) : Prop :=
  ∃ u, Transmitted bs (txAnswer s) s u ∧
    (txAnswer s = .sent → out = .next { u with phase := .await .inf .afterAwait }) ∧
    (txAnswer s = .linkError → LoopsAfterDiag .linkError u out)

/-! ### A byte of a response -/

/-- A byte of a captured response is received and has a value: the response has that byte (43_transport.md
R137). -/
theorem rx_eq_iff {b : List Byte} (hb : b.length ≤ 64) (s : State) {i : Nat} (hi : i < 64) (v : Byte) :
    (i < (s.receive (.data b)).rxLen.toNat ∧ (s.receive (.data b)).rx i = v) ↔ b[i]? = some v := by
  rw [rxLen_data hb, rx_receive (.data b) s hb hi]
  by_cases h : i < b.length
  · simp [h, responseBytes]
  · simp [h]

end Sys2Proof.Machine
end

/-! ## RNG_STREAM (45_supplementary.md R163) -/

section
namespace Sys2Proof.Machine

/-! ### The request -/

section
variable {s : State}

theorem exec_rngStream_loopTop (h : s.phase = .ready .loopTop) :
    exec .rngStream s = .next (rngLoopTop s) := by
  simp only [exec, execRngStream, h]

theorem exec_rngStream_await {lim : Timeout} (h : s.phase = .await lim .afterAwait) :
    exec .rngStream s = .next (rngGoOn lim s) := by
  simp only [exec, execRngStream, h]

theorem rngLoopTop_cancel (h : s.cancelReq = true) : rngLoopTop s = s.clearCancel.finish := if_pos h

theorem rngLoopTop_request (h : s.cancelReq = false) :
    StreamRequest (longFrame s s.params.cmd.rng []) s (.next (rngLoopTop s)) := by
  unfold rngLoopTop
  rw [if_neg (Bool.eq_false_iff.mp h)]
  refine ⟨sendRng s, transmitted_transmitLong (Nat.zero_le _) _, fun hsent => ?_, fun herror => ?_⟩
  · rw [hsent]
    rfl
  · rw [herror]
    exact loopsAfterDiag .linkError (sendRng s)

/-! ### The outcome -/

theorem rngGoOn_delivers {lim : Timeout} {o : RxOutcome} (h : Delivers lim o s) :
    rngGoOn lim s = rngCaptured o (s.receive o) := by
  unfold rngGoOn
  rw [h.delivered]

theorem rngGoOn_waits (h : NoDelivery .inf s) (hcancel : s.cancelReq = false) :
    rngGoOn .inf s = s.dropRx := by
  unfold rngGoOn
  rw [h.delivered_inf]
  exact if_neg (Bool.eq_false_iff.mp hcancel)

theorem rngGoOn_cancel (h : NoDelivery .inf s) (hcancel : s.cancelReq = true) :
    rngGoOn .inf s = s.dropRx.clearCancel.finish := by
  unfold rngGoOn
  rw [h.delivered_inf]
  exact if_pos hcancel

theorem rngCaptured_linkError : rngCaptured .linkError s = (s.diag .linkError).atLoopTop := if_pos rfl

theorem rngCaptured_valid {b : List Byte} (h : rngValid s = true) :
    rngCaptured (.data b) s = (s.countRng.emit (.rngData (rngBytes s))).atLoopTop :=
  (if_neg nofun).trans (if_pos h)

theorem rngCaptured_invalid {b : List Byte} (h : ¬ rngValid s = true) :
    rngCaptured (.data b) s = (s.diag .protocolMismatch).atLoopTop :=
  (if_neg nofun).trans (if_neg h)

/-- A response `b` is valid: echo, length field and all the random bytes are there (R163). -/
def RngResponse (p : Params) (b : List Byte) : Prop :=
  b[p.rngEchoOff.val]? = some p.cmd.rng ∧ b[p.rngLenOff.val]? = some 0x20 ∧ p.rngDataOff.val + 32 ≤ b.length

variable {b : List Byte} (hb : b.length ≤ 64)
include hb

theorem rngValid_receive : rngValid (s.receive (.data b)) = true ↔ RngResponse s.params b := by
  unfold RngResponse
  rw [← rx_eq_iff hb s s.params.rngEchoOff.isLt, ← rx_eq_iff hb s s.params.rngLenOff.isLt,
    ← rxLen_data (s := s) hb]
  simp [rngValid, and_assoc]

theorem rngBytes_receive (h : s.params.rngDataOff.val + 32 ≤ b.length) :
    rngBytes (s.receive (.data b)) = (b.drop s.params.rngDataOff.val).take 32 := by
  show State.buf _ (rxBase + s.params.rngDataOff.val) 32 = _
  rw [buf_slice _ (m := 64) (by omega), (captured_receive (o := .data b) hb s).rxBuf]
  show ((b ++ _).drop _).take 32 = _
  rw [List.drop_append_of_le_length (by omega), List.take_append_of_le_length (by simp; omega)]

end

/-- Settles O47: the start, the request of a turn, the branches on the outcome, and the wait that goes on. -/
theorem rngStreamTurns : Obligations.RngStreamTurns := by
  refine fun s => ⟨fun hstart hopen => ?start, fun htop hcancel => ?request, fun o hphase hdel => ?outcome,
    fun hphase hnone hcancel => ?waits⟩
  case start =>
    rw [exec_rngStream_start hstart, rngStart, needSession_open hopen]
    rfl
  case request => exact exec_rngStream_loopTop htop ▸ rngLoopTop_request hcancel
  case outcome =>
    rw [exec_rngStream_await hphase, rngGoOn_delivers hdel]
    refine ⟨s.receive o, hdel.captured, ?linkError, ?data⟩
    case linkError =>
      rintro rfl
      exact rngCaptured_linkError ▸ loopsAfterDiag .linkError _
    case data =>
      rintro b rfl
      obtain ⟨-, hb⟩ := hdel.data_length
      refine ⟨fun hvalid => ?valid, fun hinvalid => ?invalid⟩
      case valid =>
        have ⟨_, _, hdata⟩ := hvalid
        rw [rngCaptured_valid ((rngValid_receive hb).mpr hvalid), rngBytes_receive hb hdata]
        rfl
      case invalid =>
        rw [rngCaptured_invalid (mt (rngValid_receive hb).mp hinvalid)]
        exact loopsAfterDiag .protocolMismatch _
  case waits => rw [exec_rngStream_await hphase, rngGoOn_waits hnone hcancel]

end Sys2Proof.Machine
end

/-! ## SEED_STREAM (45_supplementary.md R164) -/

section
namespace Sys2Proof.Machine

section
variable {s : State}

/-! ### The wait for a chunk -/

theorem exec_seedStream_loopTop (h : s.phase = .ready .loopTop) :
    exec .seedStream s = .next (seedLoopTop s) := by
  simp only [exec, execSeedStream, h]

theorem exec_seedStream_input (h : s.phase = .input .afterInput) :
    exec .seedStream s = .next (seedInput s) := by
  simp only [exec, execSeedStream, h]

theorem exec_seedStream_await {lim : Timeout} (h : s.phase = .await lim .afterAwait) :
    exec .seedStream s = .next (seedGoOn lim s) := by
  simp only [exec, execSeedStream, h]

theorem seedLoopTop_waits (h : s.cancelReq = false) : seedLoopTop s = s.waitForInput :=
  if_neg (Bool.eq_false_iff.mp h)

theorem seedLoopTop_cancel (h : s.cancelReq = true) : seedLoopTop s = seedCancel s := if_pos h

theorem seedInput_waits (hwaitin : s.status.waitin = true) (hcancel : s.cancelReq = false) :
    seedInput s = s := by
  unfold seedInput
  rw [hwaitin, hcancel]

theorem seedInput_cancel (hwaitin : s.status.waitin = true) (hcancel : s.cancelReq = true) :
    seedInput s = seedCancel s := by
  unfold seedInput
  rw [hwaitin, hcancel]

theorem seedInput_chunk (hwaitin : s.status.waitin = false) (hcancel : s.cancelReq = false) :
    seedInput s = seedTake s := by
  unfold seedInput
  rw [hwaitin, hcancel]

/-- With a cancel and a chunk the ENVIRONMENT says which comes first (60_exceptions.md R176). -/
theorem seedInput_race (hwaitin : s.status.waitin = false) (hcancel : s.cancelReq = true) :
    seedInput s = if orderAnswer s then seedCancel s.dropOrder else seedTake s.dropOrder := by
  unfold seedInput
  rw [hwaitin, hcancel]

/-! ### The chunk -/

theorem ended_seedEnd (s : State) :
    Ended { s with outLog := s.outLog ++ [.seedSummary s.seedCount] } (seedEnd s) := ended_finish _

theorem ended_seedCancel (s : State) :
    Ended { s with cancelReq := false, outLog := s.outLog ++ [.seedSummary s.seedCount] } (seedCancel s) :=
  ended_seedEnd s.clearCancel

theorem seedTake_end (h : s.chunkN = 0) : seedTake s = seedEnd s := if_pos h

theorem seedTake_request (hchunk : s.chunkN ≠ 0) (hlen : s.chunk.length = s.chunkN.toNat)
    (hmax : s.chunkN.toNat ≤ 20) :
    StreamRequest (longFrame s s.params.cmd.seed s.chunk) s (.next (seedTake s)) := by
  have hfits : s.chunk.length ≤ longMax s.params.longBcnt := le_longMax (by omega) _
  unfold seedTake
  rw [if_neg hchunk, List.take_of_length_le hlen.le]
  refine ⟨sendSeed s.chunk s, transmitted_transmitLong hfits _, fun hsent => ?_, fun herror => ?_⟩
  · rw [hsent]
    rfl
  · rw [herror]
    exact loopsAfterDiag .linkError (sendSeed s.chunk s)

/-! ### The outcome -/

theorem seedGoOn_delivers {lim : Timeout} {o : RxOutcome} (h : Delivers lim o s) :
    seedGoOn lim s = seedCaptured o (s.receive o) := by
  unfold seedGoOn
  rw [h.delivered]

theorem seedGoOn_waits (h : NoDelivery .inf s) (hcancel : s.cancelReq = false) :
    seedGoOn .inf s = s.dropRx := by
  unfold seedGoOn
  rw [h.delivered_inf]
  exact if_neg (Bool.eq_false_iff.mp hcancel)

theorem seedGoOn_cancel (h : NoDelivery .inf s) (hcancel : s.cancelReq = true) :
    seedGoOn .inf s = seedCancel s.dropRx := by
  unfold seedGoOn
  rw [h.delivered_inf]
  exact if_pos hcancel

theorem seedCaptured_linkError : seedCaptured .linkError s = (s.diag .linkError).atLoopTop := if_pos rfl

theorem seedCaptured_accepted {b : List Byte} (h : seedAccepted s = true) :
    seedCaptured (.data b) s = s.countSeed.atLoopTop := (if_neg nofun).trans (if_pos h)

theorem seedCaptured_rejected {b : List Byte} (h : ¬ seedAccepted s = true) :
    seedCaptured (.data b) s = (s.diag .protocolMismatch).atLoopTop := (if_neg nofun).trans (if_neg h)

theorem seedAccepted_receive {b : List Byte} (hb : b.length ≤ 64) :
    seedAccepted (s.receive (.data b)) = true ↔ b[s.params.seedOkOff.val]? = some 0x01 := by
  rw [← rx_eq_iff hb s s.params.seedOkOff.isLt]
  simp [seedAccepted]

end

/-- Settles O48: the start, the wait for a chunk, the chunk or the end of input, the branches on the outcome,
and the two waits that go on. -/
theorem seedStreamTurns : Obligations.SeedStreamTurns := by
  refine fun s => ⟨fun hstart hopen => ?start, fun htop hcancel => ?input,
    fun hphase hwaitin hcancel => ?chunk, fun o hphase hdel => ?outcome,
    fun hphase hnone hcancel => ?noDelivery, fun hphase hwaitin hcancel => ?noChunk⟩
  case start =>
    rw [exec_seedStream_start hstart, seedStart, needSession_open hopen]
    rfl
  case input =>
    rw [exec_seedStream_loopTop htop, seedLoopTop_waits hcancel]
    rfl
  case chunk =>
    rw [exec_seedStream_input hphase, seedInput_chunk hwaitin hcancel]
    exact ⟨fun hend => ⟨_, congrArg _ (seedTake_end hend), ended_seedEnd s⟩, seedTake_request⟩
  case outcome =>
    rw [exec_seedStream_await hphase, seedGoOn_delivers hdel]
    refine ⟨s.receive o, hdel.captured, ?linkError, ?data⟩
    case linkError =>
      rintro rfl
      exact seedCaptured_linkError ▸ loopsAfterDiag .linkError _
    case data =>
      rintro b rfl
      have haccepted := seedAccepted_receive (s := s) hdel.data_length.2
      refine ⟨fun hok => ?accepted, fun hbad => ?rejected⟩
      case accepted =>
        rw [seedCaptured_accepted (haccepted.mpr hok), BitVec.ofNat_toNat]
        rfl
      case rejected =>
        rw [seedCaptured_rejected (mt haccepted.mp hbad)]
        exact loopsAfterDiag .protocolMismatch _
  case noDelivery => rw [exec_seedStream_await hphase, seedGoOn_waits hnone hcancel]
  case noChunk => rw [exec_seedStream_input hphase, seedInput_waits hwaitin hcancel]

/-! ## The cancel of a stream (45_supplementary.md R161, 60_exceptions.md R176) -/

/-- Settles O49: each place where a stream looks at the cancel, and at a committed chunk the order the
ENVIRONMENT gives. -/
theorem streamsEndAtACancel : Obligations.StreamsEndAtACancel := by
  refine fun s hcancel => ⟨fun htop => ⟨?rngTop, ?seedTop⟩, fun hphase hnone => ⟨?rngAwait, ?seedAwait⟩,
    fun hphase hwaitin => ?noChunk, fun hphase hwaitin => ?race⟩
  case rngTop =>
    rw [exec_rngStream_loopTop htop, rngLoopTop_cancel hcancel]
    exact ⟨_, rfl, ended_finish s.clearCancel⟩
  case seedTop =>
    rw [exec_seedStream_loopTop htop, seedLoopTop_cancel hcancel]
    exact ⟨_, rfl, ended_seedCancel s⟩
  case rngAwait =>
    rw [exec_rngStream_await hphase, rngGoOn_cancel hnone hcancel]
    exact ⟨_, rfl, ended_finish s.dropRx.clearCancel⟩
  case seedAwait =>
    rw [exec_seedStream_await hphase, seedGoOn_cancel hnone hcancel]
    exact ⟨_, rfl, ended_seedCancel s.dropRx⟩
  case noChunk =>
    rw [exec_seedStream_input hphase, seedInput_cancel hwaitin hcancel]
    exact ⟨_, rfl, ended_seedCancel s⟩
  case race =>
    rw [exec_seedStream_input hphase, seedInput_race hwaitin hcancel]
    refine ⟨fun horder => ?cancelFirst, fun horder hend => ?endFirst,
      fun horder hchunk hlen hmax => ?chunkFirst⟩
    case cancelFirst => exact ⟨_, congrArg _ (if_pos horder), ended_seedCancel s.dropOrder⟩
    case endFirst =>
      rw [if_neg (Bool.eq_false_iff.mp horder), seedTake_end (s := s.dropOrder) hend]
      exact ⟨_, rfl, ended_seedEnd s.dropOrder⟩
    case chunkFirst =>
      rw [if_neg (Bool.eq_false_iff.mp horder)]
      exact seedTake_request (s := s.dropOrder) hchunk hlen hmax

end Sys2Proof.Machine
end

/-! ## WIPE (45_supplementary.md R166) -/

section
namespace Sys2Proof.Machine

theorem satInc_eq (b : Byte) : satInc b = BitVec.ofNat 8 (min (b.toNat + 1) 255) := by
  unfold satInc
  have hlt := b.isLt
  apply BitVec.eq_of_toNat_eq
  split
  case isTrue h => simp [h]
  case isFalse h =>
    rw [BitVec.toNat_eq] at h
    simp at h ⊢
    omega

/-- A turn of the loop counts the await and enters it (R166). -/
theorem wipeLoop_eq (s : State) :
    wipeLoop s = { s with att := BitVec.ofNat 8 (min (s.att.toNat + 1) 255),
                          tries := BitVec.ofNat 8 (min (s.tries.toNat + 1) 255),
                          phase := .await .wipe .afterAwait } := by
  rw [← satInc_eq, ← satInc_eq]
  rfl

section
variable {s : State}

theorem wipeStart_open (h : s.status.opened = true) :
    wipeStart s = afterTransmit (txAnswer s) (fun u => wipeLoop (u.setTries 0)) (sendWipe s) :=
  needSession_open h _

theorem exec_wipe_await {lim : Timeout} (h : s.phase = .await lim .afterAwait) :
    exec .wipe s = .next (wipeGoOn lim s) := by
  simp only [exec, execWipe, h]

theorem exec_wipe_delivers {lim : Timeout} {o : RxOutcome} (hphase : s.phase = .await lim .afterAwait)
    (h : Delivers lim o s) : exec .wipe s = .next (wipeCaptured o (s.receive o)) := by
  rw [exec_wipe_await hphase]
  unfold wipeGoOn
  rw [h.delivered]

theorem wipeResult_receive {b : List Byte} (hb : b.length ≤ 64) :
    wipeResult (s.receive (.data b)) = if b[s.params.wipeOkOff.val]? = some 0x01 then 0x01 else 0x00 :=
  if_congr (rx_eq_iff hb s s.params.wipeOkOff.isLt 0x01) rfl rfl

end

/-- Settles O50: the session check and the frame, then the branches on the outcome; a wait without a delivery
receives its timeout. -/
theorem wipeWaitsForAResponse : Obligations.WipeWaitsForAResponse := by
  refine fun s => ⟨fun hstart hclosed => noSession_of_needSession hclosed (exec_wipe_start hstart),
    fun hstart hopen => ?start, fun o hphase hdel => ?outcome, fun hphase hnone => ?silent⟩
  case start =>
    rw [exec_wipe_start hstart, wipeStart_open hopen]
    refine ⟨sendWipe s, transmitted_transmitLong (Nat.zero_le _) _, fun hsent => ?_, fun herror => ?_⟩
    · rw [hsent]
      exact congrArg _ (wipeLoop_eq _)
    · rw [herror]
      exact ⟨_, rfl, faulted_raise .linkError _⟩
  case outcome =>
    rw [exec_wipe_delivers hphase hdel]
    refine ⟨s.receive o, hdel.captured, ?timeout, ?linkError, ?data⟩
    case timeout =>
      rintro rfl
      exact congrArg _ (wipeLoop_eq _)
    case linkError =>
      rintro rfl
      exact ⟨_, rfl, faulted_raise .linkError _⟩
    case data =>
      rintro b rfl
      rw [← wipeResult_receive hdel.data_length.2]
      exact ⟨_, rfl, ended_finish _⟩
  case silent =>
    exact ⟨_, exec_wipe_delivers hphase (hnone.delivers nofun), rfl, rfl, rfl, rfl⟩

end Sys2Proof.Machine
end

/-! ## Where ERR comes from (60_exceptions.md R170, R171) -/

section
namespace Sys2Proof.Machine

/-- The codes of R170 but that of no fault. -/
theorem ErrName.code_mem (e : ErrName) :
    e.code ∈ [0x01, 0x02, 0x03, 0x04, 0x05, 0x06, 0x07, 0x08, 0x10, 0x11, 0x12, 0x13, 0x14] := by
  cases e <;> decide

theorem Made.keepsHosts {s t : State} (h : Made s t) : KeepsHosts s t :=
  h.keeps .refl (fun _ _ _ => .trans) (fun _ _ => Act.keepsHosts)

theorem Made.keepsSession {s t : State} (h : Made s t) : KeepsSession s t :=
  h.keeps .refl (fun _ _ _ => .trans) (fun _ _ => Act.keepsSession)

/-- `t` is `s` after a chain of shared operations and a fault entry: a step that raised a fault. -/
def Raised (s t : State) : Prop := ∃ e u, Made s u ∧ t = u.raise e

section
variable {s t : State} (hs : s.status.err = false) (ht : t.status.err = true)
include hs ht

/-- An operation that sets ERR has raised a fault: OPEN and CLOSE end without one where they change the
session. -/
theorem raised_of_exec {i : Instr} (hi : i.isCommand = true) (h : exec i s = .next t) : Raised s t := by
  by_cases ho : i = .openDev
  · subst ho
    rcases execOpen_cases h with hturn | ⟨d, -, rfl⟩
    · exact turn_raised hturn hs ht
    · exact nomatch hs.symm.trans ht
  by_cases hc : i = .closeDev
  · subst hc
    cases (execClose_eq s).symm.trans h
    exact nomatch hs.symm.trans ht
  rcases turn_exec hi ho hc h with hturn | rfl | rfl
  · exact turn_raised hturn hs ht
  · exact nomatch hs.symm.trans ht
  · exact nomatch hs.symm.trans ht

theorem raised_of_coreStep (h : coreStep s = .next t) : Raised s t := by
  rcases coreStep_cases h with ⟨-, rfl⟩ | ⟨-, hexec⟩
  · exact nomatch hs.symm.trans ht
  · exact raised_of_exec hs ht (isCommand_latched s) hexec

end

/-- No HOST write sets ERR: an issue clears it, and every other write leaves it (40_control.md R106,
60_exceptions.md R177). -/
theorem writeByte_err {s : State} (hs : s.status.err = false) (off : Offset) (v : Byte) :
    (s.writeByte off v).status.err = false := by
  rcases writeByte_cases s off v with e | e | ⟨-, e⟩ | e | ⟨-, e⟩ | ⟨-, -, -, e⟩ <;> rw [e]
  · exact hs
  · exact hs
  · rfl
  · exact hs
  · exact hs
  · rwa [storeByte_status]

/-- A step of the whole system that sets ERR is a CORE step that raised a fault, its move taken off the
schedule. -/
theorem raised_of_step {s t : State} (h : step s = .next t) (hs : s.status.err = false)
    (ht : t.status.err = true) : ∃ r, Raised { s with sched := r } t := by
  rcases step_cases h with ⟨r, hcore, -⟩ | ⟨off, r, -, rfl⟩ | ⟨off, v, r, -, rfl⟩ |
    ⟨again, m, r, -, -, -, rfl⟩ | ⟨r, -, rfl⟩
  · exact ⟨r, raised_of_coreStep hs ht hcore⟩
  · exact nomatch hs.symm.trans ht
  · exact nomatch (writeByte_err (s := { s with sched := r }) hs off v).symm.trans ht
  · obtain ⟨q, e, -⟩ := pollStatus_eq again m { s with sched := r }
    rw [e] at ht
    exact nomatch hs.symm.trans ht
  · exact nomatch ht

/-- Settles O53: only a CORE step's fault entry sets ERR, and the shared operations before it leave the latch
and the session. -/
theorem errMeansAnEndedOperation : Obligations.ErrMeansAnEndedOperation := by
  intro s t h hs ht
  obtain ⟨r, e, u, hmade, rfl⟩ := raised_of_step h hs ht
  have ⟨hsession, _⟩ := hmade.keepsSession
  exact ⟨rfl, rfl, rfl, rfl, rfl, e.code_mem, { hmade.keepsHosts.latch with sched := rfl }, hsession⟩

end Sys2Proof.Machine
end

/-! ## The values after reset (70_reset_and_hazards.md R185, R186) -/

section
namespace Sys2Proof.Machine

/-! ### The window -/

theorem byte16_zero (k : Nat) : byte16 0 k = 0x00 := BitVec.extractLsb'_zero

theorem byte32_zero (k : Nat) : byte32 0 k = 0x00 := BitVec.extractLsb'_zero

theorem readRegister_platformReset (s : State) (a : Nat) : readRegister s.platformReset a = 0x00 := by
  unfold readRegister
  split
  case h_19 | h_20 | h_21 | h_22 => exact byte16_zero _
  case h_23 | h_24 | h_25 | h_26 | h_27 | h_28 | h_29 | h_30 | h_31 | h_32 | h_33 | h_34 =>
    exact byte32_zero _
  all_goals rfl

/-- Below TEMPLATE every register, buffer and reserved offset reads 0x00 after a reset (R186). -/
theorem readByte_platformReset (s : State) {off : Offset} (h : off.toNat < 0x380) :
    s.platformReset.readByte off = 0x00 := by
  by_cases hreg : off.toNat < 0x040
  · rw [readByte_register _ _ hreg, readRegister_platformReset]
  by_cases hres : accessOf off.toNat = .reserved
  · exact readByte_reserved _ _ (by omega) h hres
  · rw [readByte_buffer _ _ (by omega) h hres]
    exact Memory.read_nil _

theorem readByte_platformReset_template (s : State) {off : Offset} (h : 0x380 ≤ off.toNat) :
    s.platformReset.readByte off = s.readByte off := by
  rw [readByte_template _ _ h, readByte_template _ _ h]
  rfl

/-! ### The internal state -/

theorem internalsReset_platformReset (s : State) : InternalsReset s.platformReset := by
  constructor <;> rfl

/-- The state right after reset is one a further reset leaves as it is. -/
theorem platformReset_reset : State.reset.platformReset = State.reset := rfl

/-- Settles O19: a reset puts every value of R186 and keeps the parameters, and `State.reset` is its own
reset. -/
theorem resetGivesEveryValue : Obligations.ResetGivesEveryValue := by
  refine ⟨fun off h => ?_, fun i => readByte_template_byte State.reset i, ?_, fun s rest hs => ?_⟩
  · rw [← platformReset_reset]
    exact readByte_platformReset _ h
  · rw [← platformReset_reset]
    exact internalsReset_platformReset _
  · exact ⟨_, step_of_sched hs, fun _ => readByte_platformReset _,
      fun _ => readByte_platformReset_template { s with sched := rest }, internalsReset_platformReset _⟩

/-- Settles O58: a reset establishes each invariant whatever the state before it. -/
theorem resetMeetsTheInvariants : Obligations.ResetMeetsTheInvariants := by
  unfold Obligations.ResetMeetsTheInvariants
  rw [← platformReset_reset]
  exact ⟨memoryInv_platformReset _, flowInv_platformReset _, valuesInv_platformReset _⟩

end Sys2Proof.Machine
end

/-! ## Every finite wait receives an outcome (70_reset_and_hazards.md R197, 43_transport.md R136) -/

section
namespace Sys2Proof.Machine

/-! ### What an operation does after a capture leaves of it -/

/-- RESULT, TMO and a pending cancel are as before. -/
structure KeepsOutcome (u t : State) : Prop where
  result : t.result = u.result
  tmo : t.status.tmo = u.status.tmo
  cancelReq : t.cancelReq = u.cancelReq

theorem KeepsOutcome.trans {s t u : State} (h : KeepsOutcome s t) (h' : KeepsOutcome t u) :
    KeepsOutcome s u :=
  ⟨h'.result.trans h.result, h'.tmo.trans h.tmo, h'.cancelReq.trans h.cancelReq⟩

/-- An operation goes on to `t` from the capture `u` of `o`: the logs only grow, and a timeout's capture
stands. -/
structure GoesOn (o : RxOutcome) (u t : State) : Prop where
  logs : LogsExtend u t
  timeout : o = .timeout → KeepsOutcome u t

theorem Turn.logsExtend {i : Instr} {s t : State} (h : Turn i s t) : LogsExtend s t := by
  obtain ⟨u, hmade, hends⟩ := h
  have hpart : LogsExtend s u := hmade.keeps .refl (fun _ _ _ => .trans) (fun _ _ => Act.logsExtend)
  exact hpart.trans hends.logsExtend

theorem goesOn_finish (o : RxOutcome) (u : State) : GoesOn o u u.finish :=
  ⟨.of_eq rfl rfl, fun _ => ⟨rfl, rfl, rfl⟩⟩

theorem goesOn_recvRetryFailed (n : Byte) (o : RxOutcome) (u : State) :
    GoesOn o u (recvRetryFailed n u) := by
  unfold recvRetryFailed
  split
  · exact ⟨.of_eq rfl rfl, fun _ => ⟨rfl, rfl, rfl⟩⟩
  · exact goesOn_finish o u

theorem goesOn_wipeCaptured (o : RxOutcome) (u : State) : GoesOn o u (wipeCaptured o u) := by
  cases o with
  | timeout => exact ⟨.of_eq rfl rfl, fun _ => ⟨rfl, rfl, rfl⟩⟩
  | linkError => exact ⟨.of_eq rfl rfl, nofun⟩
  | data b => exact ⟨.of_eq rfl rfl, nofun⟩

/-- The attempts that are left of step 2 await or fault, and capture nothing themselves (44_sequencer.md
R149). -/
theorem keepsOutcome_serialAttempts (n : Nat) (a : Byte) (last : ErrName) (s : State) :
    KeepsOutcome s (serialAttempts n a last s) := by
  induction n generalizing a last s with
  | zero => exact ⟨rfl, rfl, rfl⟩
  | succ n ih =>
    have hresend : KeepsOutcome s (s.resend a) := ⟨rfl, rfl, rfl⟩
    unfold serialAttempts
    split
    · split
      · exact ⟨rfl, rfl, rfl⟩
      · exact hresend.trans (ih _ _ _)
    · exact ⟨rfl, rfl, rfl⟩

/-- A timeout ends an exchange with a fault, and is a failed attempt in step 2 (44_sequencer.md R147,
R149). -/
theorem keepsOutcome_configureCaptured {u t : State} (h : configureCaptured .timeout u = some t) :
    KeepsOutcome u t := by
  unfold configureCaptured at h
  split at h <;> cases h
  case h_2 => exact keepsOutcome_serialAttempts _ _ _ _
  all_goals exact ⟨rfl, rfl, rfl⟩

/-! ### From a finite wait on -/

section
variable {s : State} {lim : Timeout} {o : RxOutcome} (hphase : s.phase = .await lim .afterAwait)
  (hdel : Delivers lim o s)
include hphase hdel

theorem exec_recvRetry_goesOn (n : Byte) :
    ∃ t, exec (.recvRetry n) s = .next t ∧ GoesOn o (s.receive o) t := by
  cases o with
  | data b => exact ⟨_, exec_recvRetry_response hphase hdel n, goesOn_finish _ _⟩
  | timeout => exact ⟨_, exec_recvRetry_failure hphase (.inl rfl) hdel n, goesOn_recvRetryFailed n _ _⟩
  | linkError => exact ⟨_, exec_recvRetry_failure hphase (.inr rfl) hdel n, goesOn_recvRetryFailed n _ _⟩

theorem exec_configure_goesOn (hstep : s.seqStep ∈ awaitingSteps) :
    ∃ t, exec .configure s = .next t ∧ GoesOn o (s.receive o) t := by
  obtain ⟨t, ht⟩ := configureCaptured_some (s := s.receive o) hstep o
  refine ⟨t, exec_configure_captured hphase hdel ht,
    (turn_configureCaptured (rxLen_receive_le hdel.delivered) ht).logsExtend, ?_⟩
  rintro rfl
  exact keepsOutcome_configureCaptured ht

/-- An operation that waits with a limit captures what it receives and goes on from there. -/
theorem exec_finite_goesOn {i : Instr} (hi : waitsIn i lim s.seqStep) (hfinite : lim ≠ .inf) :
    ∃ t, exec i s = .next t ∧ GoesOn o (s.receive o) t := by
  obtain ⟨a, rfl, -⟩ | ⟨n, rfl, -⟩ | ⟨rfl, -, hstep⟩ | ⟨-, rfl⟩ | ⟨-, rfl⟩ | ⟨rfl, -⟩ := hi
  · exact ⟨_, exec_recv_delivers hphase hdel a, goesOn_finish _ _⟩
  · exact exec_recvRetry_goesOn hphase hdel n
  · exact exec_configure_goesOn hphase hdel hstep
  · exact absurd rfl hfinite
  · exact absurd rfl hfinite
  · exact ⟨_, exec_wipe_delivers hphase hdel, goesOn_wipeCaptured _ _⟩

end

theorem GoesOn.linkLog {o : RxOutcome} {s t : State} (h : GoesOn o (s.receive o) t) :
    s.linkLog ++ [.rx o] <+: t.linkLog := h.logs.2

/-- The four operations whose waits are finite (43_transport.md R142, R143, 44_sequencer.md R147,
45_supplementary.md R166). -/
theorem waitsIn_of_finite {i : Instr} {lim : Timeout} {k : Byte}
    (h : ((∃ a, i = .recv a) ∧ lim ≠ .inf) ∨ ((∃ n, i = .recvRetry n) ∧ lim = .cfg) ∨
      (i = .configure ∧ lim = .cfg ∧ k ∈ awaitingSteps) ∨ (i = .wipe ∧ lim = .wipe)) :
    waitsIn i lim k ∧ lim ≠ .inf := by
  obtain ⟨⟨a, rfl⟩, hfinite⟩ | ⟨⟨n, rfl⟩, rfl⟩ | ⟨rfl, rfl, hk⟩ | ⟨rfl, rfl⟩ := h
  · cases lim with
    | cfg => exact ⟨.inl ⟨a, rfl, .inl rfl⟩, hfinite⟩
    | wipe => exact ⟨.inl ⟨a, rfl, .inr rfl⟩, hfinite⟩
    | inf => exact absurd rfl hfinite
  · exact ⟨.inr (.inl ⟨n, rfl, rfl⟩), nofun⟩
  · exact ⟨.inr (.inr (.inl ⟨rfl, rfl, hk⟩)), nofun⟩
  · exact ⟨.inr (.inr (.inr (.inr (.inr ⟨rfl, rfl⟩)))), nofun⟩

/-! ### The turns of the agents -/

/-- The wait of limit `lim` that `s` is in has received an outcome in `t`. -/
def HasReceived (lim : Timeout) (s t : State) : Prop :=
  ∃ o, enabledAt lim o = true ∧ s.linkLog ++ [.rx o] <+: t.linkLog

/-- The moves that come next are no part of the invariant. -/
theorem FlowInv.withSched {s : State} (hs : FlowInv s) (r : List Move) : FlowInv { s with sched := r } :=
  ⟨{ hs.status with }, hs.phase, hs.waitin, hs.session⟩

section
variable {s : State} {lim : Timeout} {pos : Pos} (hs : FlowInv s) (hphase : s.phase = .await lim pos)
include hs hphase

/-- The one step of the CORE in a finite wait receives an outcome (70_reset_and_hazards.md R197). -/
theorem coreStep_receives (hfinite : lim ≠ .inf) :
    ∃ t, coreStep s = .next t ∧ HasReceived lim s t := by
  obtain ⟨o, ho⟩ := delivered_finite hfinite s
  rcases phaseOfOperation_cases hs.phase with hp | hp | ⟨hp, -⟩ | ⟨lim', hp, hi⟩ | ⟨hp, -⟩ <;>
    cases hphase.symm.trans hp
  obtain ⟨t, hexec, hgoes⟩ := exec_finite_goesOn hphase (delivers_of_delivered ho) hi hfinite
  exact ⟨t, (coreStep_busy (by rw [hphase]; nofun)).trans hexec, o, delivered_enabled ho, hgoes.linkLog⟩

/-- Where the CORE moves next a finite wait receives its outcome in that step. -/
theorem step_core_receives (hfinite : lim ≠ .inf) {rest : List Move}
    (hcore : (s.sched = [] ∧ rest = []) ∨ s.sched = .core :: rest) :
    ∃ t, step s = .next t ∧ HasReceived lim s t := by
  obtain ⟨t, ht, hreceived⟩ := coreStep_receives (hs.withSched rest) hphase hfinite
  exact ⟨t, (step_of_core hcore).trans ht, hreceived⟩

/-- A HOST write leaves the CORE where it waits: an issue is dropped while an operation runs (40_control.md
R106). -/
theorem writeByte_phase_of_await (off : Offset) (v : Byte) : (s.writeByte off v).phase = s.phase := by
  have hbusy : s.status.busy = true := hs.status.busyPhase.mpr (by rw [hphase]; nofun)
  rcases writeByte_cases s off v with e | e | ⟨hidle, e⟩ | e | ⟨-, e⟩ | ⟨-, -, -, e⟩ <;> rw [e]
  · rfl
  · exact absurd (hbusy.symm.trans hidle) nofun
  · rfl
  · exact storeByte_phase off.toNat v s

/-- A step in a finite wait but a reset: the CORE receives an outcome, or the HOST has its turn and the wait
stands, the CORE being next where the HOST polls again. -/
theorem step_receives_or_waits (hfinite : lim ≠ .inf) {t : State} (h : step s = .next t)
    (hnoreset : .reset ∉ s.sched) :
    HasReceived lim s t ∨
      (t.phase = s.phase ∧ t.linkLog = s.linkLog ∧
        ∃ m r, s.sched = m :: r ∧ (t.sched = r ∨ ∃ q, t.sched = .core :: q)) := by
  rcases step_cases h with ⟨r, hcore, -⟩ | ⟨off, r, hr, rfl⟩ | ⟨off, v, r, hr, rfl⟩ |
    ⟨again, m, r, hr, -, -, rfl⟩ | ⟨r, hr, -⟩
  · obtain ⟨u, hu, hreceived⟩ := coreStep_receives (hs.withSched r) hphase hfinite
    cases hcore.symm.trans hu
    exact .inl hreceived
  · exact .inr ⟨rfl, rfl, _, r, hr, .inl rfl⟩
  · obtain ⟨-, -, hlink⟩ := writeByte_params_logs { s with sched := r } off v
    have hphase' := writeByte_phase_of_await (hs.withSched r) hphase off v
    exact .inr ⟨hphase', hlink, _, r, hr, .inl (writeByte_sched _ off v)⟩
  · obtain ⟨q, e, hq⟩ := pollStatus_eq again m { s with sched := r }
    rw [e]
    exact .inr ⟨rfl, rfl, m, r, hr, hq.imp_right fun hq => ⟨_, hq⟩⟩
  · exact absurd (hr ▸ List.mem_cons_self) hnoreset

end

/-! ### A run of turns -/

/-- A finite wait receives an outcome once each listed move has been taken and the CORE has its turn: the HOST
can put that turn off by one listed move at a time, and a poll brings it at once (assumption 3). -/
theorem finiteWait_receives {lim : Timeout} {pos : Pos} (hfinite : lim ≠ .inf) (moves : List Move)
    {s : State} (hs : FlowInv s) (hsched : s.sched = moves)
    (hmoves : ∀ m ∈ s.sched, moveIsAccess m = true ∧ m ≠ .reset) (hphase : s.phase = .await lim pos) :
    ∃ k t, k ≤ moves.length + 1 ∧ stepRuns k s t ∧ HasReceived lim s t := by
  induction moves generalizing s with
  | nil =>
    obtain ⟨t, ht, hreceived⟩ := step_core_receives hs hphase hfinite (.inl ⟨hsched, rfl⟩)
    exact ⟨1, t, Nat.le_refl 1, ⟨t, ht, rfl⟩, hreceived⟩
  | cons m rest ih =>
    obtain ⟨u, hu⟩ := step_next hs.phase fun m hm => (hmoves m hm).1
    have hflow : FlowInv u := everyStepKeepsTheFlow s u hs hu
    rcases step_receives_or_waits hs hphase hfinite hu (fun hr => (hmoves _ hr).2 rfl) with
      hreceived | ⟨hphase', hlink, m', r, hr, hnext⟩
    · exact ⟨1, u, by simp, ⟨u, hu, rfl⟩, hreceived⟩
    obtain ⟨-, rfl⟩ := List.cons.inj (hsched.symm.trans hr)
    unfold HasReceived
    rw [← hlink]
    rw [hphase] at hphase'
    rcases hnext with hrest | ⟨q, hcore⟩
    · have hmoves' : ∀ n ∈ u.sched, moveIsAccess n = true ∧ n ≠ .reset := fun n hn =>
        hmoves n (by rw [hsched]; exact .tail _ (hrest ▸ hn))
      obtain ⟨k, t, hk, hruns, hreceived⟩ := ih hflow hrest hmoves' hphase'
      exact ⟨k + 1, t, Nat.succ_le_succ hk, ⟨u, hu, hruns⟩, hreceived⟩
    · obtain ⟨t, ht, hreceived⟩ := step_core_receives hflow hphase' hfinite (.inr hcore)
      exact ⟨2, t, by simp, ⟨u, hu, t, ht, rfl⟩, hreceived⟩

/-- Settles O59: without a delivery the outcome is the timeout, whose capture stands; and the CORE's turn comes
when the listed moves are taken. -/
theorem finiteWaitsReceiveAnOutcome : Obligations.FiniteWaitsReceiveAnOutcome := by
  refine ⟨fun s i lim hi hphase hnone => ?silent, fun s lim pos hs hmoves hphase hfinite => ?run⟩
  case silent =>
    obtain ⟨hwaits, hfinite⟩ := waitsIn_of_finite hi
    obtain ⟨t, hexec, hgoes⟩ := exec_finite_goesOn hphase (hnone.delivers hfinite) hwaits hfinite
    obtain ⟨hresult, htmo, hcancel⟩ := hgoes.timeout rfl
    exact ⟨t, hexec, hgoes.linkLog, hresult, htmo, hcancel⟩
  case run =>
    obtain ⟨k, t, hk, hruns, o, ho, hlink⟩ := finiteWait_receives hfinite s.sched hs rfl hmoves hphase
    exact ⟨k, t, o, hk, hruns, ho, hlink⟩

end Sys2Proof.Machine
end
